-- ==== Sys2Proof/Word.lean ====
section
/-!
DEFINITION. The word types of the machine (spec/00_scope.md rules R6, R9).
Every value is unsigned.  Register contents and memory bytes are 8 bits, an opcode, the index register, the program
counter and a call-stack entry are 16 bits.  A memory address inside a computation is a plain `Nat`, because the
specification computes effective addresses in unbounded integers (R44).
-/

namespace Sys2Proof

/-- A general register, a timer or one byte of memory (V_WIDTH, TIMER_WIDTH; R6). -/
abbrev Byte := BitVec 8

/-- An opcode, the index register I, the program counter PC or a return address (I_WIDTH, PC_WIDTH; R6). -/
abbrev Word := BitVec 16

/-- The number of a general register V0..VF, of a key, or the row count N of DXYN: one opcode nibble (R12, R57). -/
abbrev Nibble := Fin 16

/-- `zext_16`: widen with zero bits (R9). -/
abbrev zext16 {n : Nat} (v : BitVec n) : Word := v.setWidth 16

end Sys2Proof
end

