-- ==== Sys2Proof/Syntax.lean ====
section
/-!
DEFINITION. The 34 instructions (spec/30_encoding.md rule R60), one constructor for each row of
spec/opcode_table.json.  Operands are typed by their field's width (R12, R57): X, Y and N are one nibble, NN is a byte,
NNN is 12 bits, so every term is a legal instruction.
-/

namespace Sys2Proof

/-- One decoded instruction.  The comment of each constructor gives its pattern and mnemonic. -/
inductive Instr where
  /-- 00E0, CLS -/
  | cls
  /-- 00EE, RET -/
  | ret
  /-- 1NNN, JP NNN -/
  | jp (nnn : BitVec 12)
  /-- 2NNN, CALL NNN -/
  | call (nnn : BitVec 12)
  /-- 3XNN, SE VX, NN -/
  | seImm (x : Nibble) (nn : Byte)
  /-- 4XNN, SNE VX, NN -/
  | sneImm (x : Nibble) (nn : Byte)
  /-- 5XY0, SE VX, VY -/
  | seReg (x y : Nibble)
  /-- 6XNN, LD VX, NN -/
  | ldImm (x : Nibble) (nn : Byte)
  /-- 7XNN, ADD VX, NN -/
  | addImm (x : Nibble) (nn : Byte)
  /-- 8XY0, LD VX, VY -/
  | ldReg (x y : Nibble)
  /-- 8XY1, OR VX, VY -/
  | orReg (x y : Nibble)
  /-- 8XY2, AND VX, VY -/
  | andReg (x y : Nibble)
  /-- 8XY3, XOR VX, VY -/
  | xorReg (x y : Nibble)
  /-- 8XY4, ADD VX, VY -/
  | addReg (x y : Nibble)
  /-- 8XY5, SUB VX, VY -/
  | sub (x y : Nibble)
  /-- 8XY6, SHR VX; Y is encoded and not read (R103) -/
  | shr (x y : Nibble)
  /-- 8XY7, SUBN VX, VY -/
  | subn (x y : Nibble)
  /-- 8XYE, SHL VX; Y is encoded and not read (R105) -/
  | shl (x y : Nibble)
  /-- 9XY0, SNE VX, VY -/
  | sneReg (x y : Nibble)
  /-- ANNN, LD I, NNN -/
  | ldI (nnn : BitVec 12)
  /-- BNNN, JP V0, NNN -/
  | jpV0 (nnn : BitVec 12)
  /-- CXNN, RND VX, NN -/
  | rnd (x : Nibble) (nn : Byte)
  /-- DXYN, DRW VX, VY, N -/
  | drw (x y n : Nibble)
  /-- EX9E, SKP VX -/
  | skp (x : Nibble)
  /-- EXA1, SKNP VX -/
  | sknp (x : Nibble)
  /-- FX07, LD VX, DT -/
  | ldVxDt (x : Nibble)
  /-- FX0A, LD VX, K -/
  | ldVxKey (x : Nibble)
  /-- FX15, LD DT, VX -/
  | ldDtVx (x : Nibble)
  /-- FX18, LD ST, VX -/
  | ldStVx (x : Nibble)
  /-- FX1E, ADD I, VX -/
  | addI (x : Nibble)
  /-- FX29, LD F, VX -/
  | ldFont (x : Nibble)
  /-- FX33, LD B, VX -/
  | ldBcd (x : Nibble)
  /-- FX55, LD [I], VX -/
  | storeRegs (x : Nibble)
  /-- FX65, LD VX, [I] -/
  | loadRegs (x : Nibble)
deriving DecidableEq, Repr

end Sys2Proof
end

