-- ==== Sys2Proof/Decode.lean ====
section
/-!
DEFINITION. The decoder (spec/30_encoding.md rules R58, R59, R64), total on every 16-bit word and on any bytes, and after it
the encoder (the Encoding lines of spec/41_display.md to spec/45_timers_input.md).  `none` is the specification's
`Unknown(op)`.
-/

namespace Sys2Proof

/-! ### Opcode fields (spec/00_scope.md R8, R12) -/

/-- `v[hi:lo]` as an unsigned number (R8). -/
def bitField (v : Word) (hi lo : Nat) : Nat := v.toNat / 2 ^ lo % 2 ^ (hi + 1 - lo)

/-- `H = op[15:12]`, the family selector. -/
def opH (op : Word) : Nat := bitField op 15 12

/-- `X = op[11:8]`. -/
def opX (op : Word) : Nibble := Fin.ofNat 16 (bitField op 11 8)

/-- `Y = op[7:4]`. -/
def opY (op : Word) : Nibble := Fin.ofNat 16 (bitField op 7 4)

/-- `N = op[3:0]`. -/
def opN (op : Word) : Nibble := Fin.ofNat 16 (bitField op 3 0)

/-- `NN = op[7:0]`. -/
def opNN (op : Word) : Byte := BitVec.ofNat 8 (bitField op 7 0)

/-- `NNN = op[11:0]`. -/
def opNNN (op : Word) : BitVec 12 := BitVec.ofNat 12 (bitField op 11 0)

/-! ### Second level, one definition for each family that needs it (R59) -/

/-- Family 0: the whole opcode is compared. -/
def decodeFamily0 (op : Word) : Option Instr :=
  if op = 0x00E0 then some .cls
  else if op = 0x00EE then some .ret
  else none

/-- Family 5: the low nibble must be 0. -/
def decodeFamily5 (op : Word) : Option Instr :=
  if opN op = 0 then some (.seReg (opX op) (opY op)) else none

/-- Family 8: the low nibble selects; 8, 9, A, B, C, D and F are unknown. -/
def decodeFamily8 (op : Word) : Option Instr :=
  match (opN op).val with
  | 0x0 => some (.ldReg (opX op) (opY op))
  | 0x1 => some (.orReg (opX op) (opY op))
  | 0x2 => some (.andReg (opX op) (opY op))
  | 0x3 => some (.xorReg (opX op) (opY op))
  | 0x4 => some (.addReg (opX op) (opY op))
  | 0x5 => some (.sub (opX op) (opY op))
  | 0x6 => some (.shr (opX op) (opY op))
  | 0x7 => some (.subn (opX op) (opY op))
  | 0xE => some (.shl (opX op) (opY op))
  | _ => none

/-- Family 9: the low nibble must be 0. -/
def decodeFamily9 (op : Word) : Option Instr :=
  if opN op = 0 then some (.sneReg (opX op) (opY op)) else none

/-- Family E: the low byte selects. -/
def decodeFamilyE (op : Word) : Option Instr :=
  match bitField op 7 0 with
  | 0x9E => some (.skp (opX op))
  | 0xA1 => some (.sknp (opX op))
  | _ => none

/-- Family F: the low byte selects. -/
def decodeFamilyF (op : Word) : Option Instr :=
  match bitField op 7 0 with
  | 0x07 => some (.ldVxDt (opX op))
  | 0x0A => some (.ldVxKey (opX op))
  | 0x15 => some (.ldDtVx (opX op))
  | 0x18 => some (.ldStVx (opX op))
  | 0x1E => some (.addI (opX op))
  | 0x29 => some (.ldFont (opX op))
  | 0x33 => some (.ldBcd (opX op))
  | 0x55 => some (.storeRegs (opX op))
  | 0x65 => some (.loadRegs (opX op))
  | _ => none

/-! ### First level (R58) -/

/-- The decoder: one of the 34 instructions with its fields, or `none` for `Unknown(op)` (R58, R59, R64).
It reads the word alone. -/
def decode (op : Word) : Option Instr :=
  match opH op with
  | 0x0 => decodeFamily0 op
  | 0x1 => some (.jp (opNNN op))
  | 0x2 => some (.call (opNNN op))
  | 0x3 => some (.seImm (opX op) (opNN op))
  | 0x4 => some (.sneImm (opX op) (opNN op))
  | 0x5 => decodeFamily5 op
  | 0x6 => some (.ldImm (opX op) (opNN op))
  | 0x7 => some (.addImm (opX op) (opNN op))
  | 0x8 => decodeFamily8 op
  | 0x9 => decodeFamily9 op
  | 0xA => some (.ldI (opNNN op))
  | 0xB => some (.jpV0 (opNNN op))
  | 0xC => some (.rnd (opX op) (opNN op))
  | 0xD => some (.drw (opX op) (opY op) (opN op))
  | 0xE => decodeFamilyE op
  | 0xF => decodeFamilyF op
  | _ => none

/-- The opcode of two consecutive bytes, the first one high (spec/20_memory.md R46). -/
def opcodeOfBytes (hi lo : Byte) : Word := BitVec.ofNat 16 (hi.toNat * 256 + lo.toNat)

/-- The first byte of an opcode in memory, its high byte (R46). -/
def opcodeHi (op : Word) : Byte := BitVec.ofNat 8 (bitField op 15 8)

/-- The second byte of an opcode in memory, its low byte (R46). -/
def opcodeLo (op : Word) : Byte := BitVec.ofNat 8 (bitField op 7 0)

/-- Decode the bytes at the head of a list, and give the bytes that follow the instruction (R55: two bytes, one length).
`none` for an unknown word and for fewer than two bytes. -/
def decodeBytes : List Byte → Option (Instr × List Byte)
  | hi :: lo :: rest => (decode (opcodeOfBytes hi lo)).map fun i => (i, rest)
  | _ => none

/-- The instruction the decoder reads from the opcode whose bits are `w`, laid out in memory as the machine stores it:
16 bits, high byte first (R46, R55). -/
def decodeTableWord (nbits w : Nat) : Option Instr :=
  let op : Word := BitVec.ofNat 16 (w % 2 ^ nbits)
  (decodeBytes [opcodeHi op, opcodeLo op]).map (·.1)

/-! ### The encoder (the Encoding line of each instruction's rule, R82 to R118) -/

/-- Layout `nnn`: `H<<12 | NNN` (R56). -/
def encodeNNN (h : Nat) (nnn : BitVec 12) : Word := BitVec.ofNat 16 (h * 4096 + nnn.toNat)

/-- Layout `xnn`, and layout `x` with the fixed low byte `nn`: `H<<12 | X<<8 | NN` (R56). -/
def encodeXNN (h : Nat) (x : Nibble) (nn : Byte) : Word := BitVec.ofNat 16 (h * 4096 + x.val * 256 + nn.toNat)

/-- Layout `xyn`: `H<<12 | X<<8 | Y<<4 | N` (R56). -/
def encodeXYN (h : Nat) (x y n : Nibble) : Word := BitVec.ofNat 16 (h * 4096 + x.val * 256 + y.val * 16 + n.val)

/-- The opcode of an instruction. -/
def encode : Instr → Word
  | .cls => 0x00E0
  | .ret => 0x00EE
  | .jp nnn => encodeNNN 0x1 nnn
  | .call nnn => encodeNNN 0x2 nnn
  | .seImm x nn => encodeXNN 0x3 x nn
  | .sneImm x nn => encodeXNN 0x4 x nn
  | .seReg x y => encodeXYN 0x5 x y 0x0
  | .ldImm x nn => encodeXNN 0x6 x nn
  | .addImm x nn => encodeXNN 0x7 x nn
  | .ldReg x y => encodeXYN 0x8 x y 0x0
  | .orReg x y => encodeXYN 0x8 x y 0x1
  | .andReg x y => encodeXYN 0x8 x y 0x2
  | .xorReg x y => encodeXYN 0x8 x y 0x3
  | .addReg x y => encodeXYN 0x8 x y 0x4
  | .sub x y => encodeXYN 0x8 x y 0x5
  | .shr x y => encodeXYN 0x8 x y 0x6
  | .subn x y => encodeXYN 0x8 x y 0x7
  | .shl x y => encodeXYN 0x8 x y 0xE
  | .sneReg x y => encodeXYN 0x9 x y 0x0
  | .ldI nnn => encodeNNN 0xA nnn
  | .jpV0 nnn => encodeNNN 0xB nnn
  | .rnd x nn => encodeXNN 0xC x nn
  | .drw x y n => encodeXYN 0xD x y n
  | .skp x => encodeXNN 0xE x 0x9E
  | .sknp x => encodeXNN 0xE x 0xA1
  | .ldVxDt x => encodeXNN 0xF x 0x07
  | .ldVxKey x => encodeXNN 0xF x 0x0A
  | .ldDtVx x => encodeXNN 0xF x 0x15
  | .ldStVx x => encodeXNN 0xF x 0x18
  | .addI x => encodeXNN 0xF x 0x1E
  | .ldFont x => encodeXNN 0xF x 0x29
  | .ldBcd x => encodeXNN 0xF x 0x33
  | .storeRegs x => encodeXNN 0xF x 0x55
  | .loadRegs x => encodeXNN 0xF x 0x65

end Sys2Proof
end

