-- ==== Sys2Proof/Config.lean ====
section
/-!
DEFINITION. What is fixed for a run of the machine: the fixed sizes (spec/00_scope.md rule R6), the five model
arguments of the specification with the values each may take (R6, R39; spec/92_eei_decisions.md D2, D3, D5, D8, D12),
and the one free value (the random byte, spec/40_engine.md rule R80).
The DEFAULTS of the five arguments stand in Sys2Proof/Machine/Params.lean.
-/

namespace Sys2Proof

/-- MEM_SIZE: addresses 0..4095 (R6). -/
def memSize : Nat := 4096

/-- PROGRAM_BASE: the reset PC and the ROM load address (R6). -/
def programBase : Nat := 0x200

/-- MAX_ROM = MEM_SIZE - 0x200, the largest accepted program image in bytes (R6). -/
def maxRom : Nat := memSize - programBase

/-- KEY_OOR_POLICY: what EX9E and EXA1 do with a key number above 15 (spec/45_timers_input.md R113, R114; D12). -/
inductive KeyOorPolicy where
  /-- raise the fatal error KEY_INDEX_OUT_OF_RANGE (the specification's default) -/
  | fault
  /-- use the low four bits of the number -/
  | mask
  /-- such a key is never pressed -/
  | notPressed
deriving DecidableEq, Repr

/-- FLAG_ORDER: the order of the two writes of 8XY4..8XYE, which matters only for X = 15 (spec/43_alu.md R94; D8). -/
inductive FlagOrder where
  /-- `VF <- f; V[X] <- res` (the specification's default) -/
  | flagThenResult
  /-- `V[X] <- res; VF <- f` -/
  | resultThenFlag
deriving DecidableEq, Repr

/-- The model arguments: parameters of the step, fixed for a run (R39).  The constraints are in the types: FONT_BASE + 80 <= 0x200 (R6), and FETCH_LIMIT <= 4095, so that the
second byte of a fetch below the limit exists (R43, R45; D5 names 4094 and 4095). -/
structure Config where
  /-- FONT_BASE, the address of glyph 0 (R35; D2) -/
  fontBase : Fin 433
  /-- GLYPH_DATA: 16 bitmaps of 5 bytes, top row first (R35, R36; D3) -/
  glyphData : Vector (Vector Byte 5) 16
  /-- FETCH_LIMIT: a fetch at PC >= FETCH_LIMIT is fatal (R45, R70; D5) -/
  fetchLimit : Fin 4096
  /-- KEY_OOR_POLICY (D12) -/
  keyOorPolicy : KeyOorPolicy
  /-- FLAG_ORDER (D8) -/
  flagOrder : FlagOrder
deriving DecidableEq, Repr

/-- FREE VALUE (notes/assumptions/2.md): the random byte of the step number `k` where the host has supplied none for it.
It has no body: a claim that mentions it holds for every byte (R80, R106: "a model quantifies over every `rnd`"). -/
opaque Config.freeRnd : Nat → Byte

end Sys2Proof
end

