-- ==== Sys2Proof/Machine/Memory.lean ====
section
/-!
DEFINITION. Memory (spec/20_memory.md): one flat array of 4096 bytes, held as the list of the addresses whose byte
differs from the contents after initialization.
-/

namespace Sys2Proof.Machine

/-- The memory of the machine in its canonical form (`Memory.wf`): addresses strictly rising, and no entry equal to what
an unlisted address reads as. -/
abbrev Memory := List Host.Cell

/-- What an unlisted address reads as, the contents of memory after initialization and before a ROM is loaded: the
glyph table at FONT_BASE, 5 bytes a glyph, and 0 everywhere else (spec/10_state.md R35, R37; spec/70 R139, R140). -/
def initByte (cfg : Config) (a : Nat) : Byte :=
  let o := a - cfg.fontBase.val
  if h : cfg.fontBase.val ≤ a ∧ o < 80 then
    (cfg.glyphData[o / 5]'(by omega))[o % 5]'(by omega)
  else 0

/-- The byte at address `a` (R49: a read has no side effect). -/
def Memory.read (cfg : Config) : Memory → Nat → Byte
  | [], a => initByte cfg a
  | (a', b') :: rest, a => if a' = a then b' else Memory.read cfg rest a

/-- The entry for byte `b` at `a`, put before `rest`; none when `b` is what an unlisted `a` reads as. -/
def Memory.consCell (cfg : Config) (a : Nat) (b : Byte) (rest : Memory) : Memory :=
  if b = initByte cfg a then rest else (a, b) :: rest

/-- Memory with byte `b` at address `a`, every other byte as before (R49), in canonical form. -/
def Memory.write (cfg : Config) : Memory → Nat → Byte → Memory
  | [], a, b => Memory.consCell cfg a b []
  | (a', b') :: rest, a, b =>
    if a' < a then (a', b') :: Memory.write cfg rest a b
    else if a' = a then Memory.consCell cfg a b rest
    else Memory.consCell cfg a b ((a', b') :: rest)

/-- The canonical form above a lower bound: every address is at least `lo`, below MEM_SIZE, and strictly below the ones
after it, and no entry is equal to what its address reads as unlisted. -/
def Memory.wfFrom (cfg : Config) : Nat → Memory → Bool
  | _, [] => true
  | lo, (a, b) :: rest => decide (lo ≤ a) && decide (a < memSize) && b != initByte cfg a && Memory.wfFrom cfg (a + 1) rest

/-- The canonical form of memory. -/
def Memory.wf (cfg : Config) (m : Memory) : Bool := Memory.wfFrom cfg 0 m

end Sys2Proof.Machine
end

