-- ==== Sys2Proof/Machine/Params.lean ====
section
/-!
DEFINITION. The default values of the five model arguments (spec/00_scope.md rule R6; spec/INDEX.md, Model arguments).
FONT_BASE and GLYPH_DATA are marked by the specification itself as taken from general knowledge (R35, R36; D2, D3), and
KEY_OOR_POLICY, FLAG_ORDER and FETCH_LIMIT as its own decisions (D12, D8, D5): see notes/assumptions/1.md.
-/

namespace Sys2Proof.Machine

/-- GLYPH_DATA, digits 0 to 7 (R36). -/
def defaultGlyphsLow : Vector (Vector Byte 5) 8 :=
  #v[#v[0xF0, 0x90, 0x90, 0x90, 0xF0], #v[0x20, 0x60, 0x20, 0x20, 0x70],
     #v[0xF0, 0x10, 0xF0, 0x80, 0xF0], #v[0xF0, 0x10, 0xF0, 0x10, 0xF0],
     #v[0x90, 0x90, 0xF0, 0x10, 0x10], #v[0xF0, 0x80, 0xF0, 0x10, 0xF0],
     #v[0xF0, 0x80, 0xF0, 0x90, 0xF0], #v[0xF0, 0x10, 0x20, 0x40, 0x40]]

/-- GLYPH_DATA, digits 8 to F (R36). -/
def defaultGlyphsHigh : Vector (Vector Byte 5) 8 :=
  #v[#v[0xF0, 0x90, 0xF0, 0x90, 0xF0], #v[0xF0, 0x90, 0xF0, 0x10, 0xF0],
     #v[0xF0, 0x90, 0xF0, 0x90, 0x90], #v[0xE0, 0x90, 0xE0, 0x90, 0xE0],
     #v[0xF0, 0x80, 0x80, 0x80, 0xF0], #v[0xE0, 0x90, 0x90, 0x90, 0xE0],
     #v[0xF0, 0x80, 0xF0, 0x80, 0xF0], #v[0xF0, 0x80, 0xF0, 0x80, 0x80]]

/-- The configuration the machine is reset with: every model argument at the default of R6. -/
def defaultConfig : Config where
  fontBase := 0x050
  glyphData := defaultGlyphsLow ++ defaultGlyphsHigh
  fetchLimit := 4094
  keyOorPolicy := .fault
  flagOrder := .flagThenResult

end Sys2Proof.Machine
end

