-- ==== Sys2Proof/Machine/State.lean ====
section
/-!
DEFINITION. The state of the machine (spec/10_state.md, the record at its head and rules R14 to R39), the fatal record
(spec/60_exceptions.md R120, R122), the state after reset (R37, R139), and the reasons a step can stop.
-/

namespace Sys2Proof.Machine

/-- The cause of a fatal error with the information R120 records for it. -/
inductive FatalCause where
  /-- code 1: a fetch at PC >= FETCH_LIMIT (R70) -/
  | fetchOutOfRange (pc : Word)
  /-- code 2: 2NNN with SP = 16 (R87) -/
  | stackOverflow
  /-- code 3: 00EE with SP = 0 (R85) -/
  | stackUnderflow
  /-- code 4: DXYN or FX65, with the last byte address, above 4095 (R83, R112) -/
  | memReadOutOfRange (addr : Nat)
  /-- code 5: FX33 or FX55, with the last byte address, above 4095 (R110, R111) -/
  | memWriteOutOfRange (addr : Nat)
  /-- code 6: EX9E or EXA1 with V[X] > 15 under KEY_OOR_POLICY = fault (R113, R114) -/
  | keyIndexOutOfRange (key : Byte)
deriving DecidableEq, Repr

/-- The fatal record: the cause (code and info), the PC at the start of the faulting step, and the fetched opcode, none
for code 1 (R122). -/
structure FatalRecord where
  cause : FatalCause
  pc : Word
  op : Option Word
deriving DecidableEq, Repr

/-- The engine status (R33). -/
inductive Status where
  /-- RUNNING: the next step fetches and executes -/
  | running
  /-- WAITING_KEY: the last step executed FX0A with no key pressed -/
  | waitingKey
  /-- HALTED(rec): a fatal error occurred; every later step is a no-op (R69) -/
  | halted (record : FatalRecord)
deriving DecidableEq, Repr

/-- The report event `UnknownOpcode(pc, op)` (R124). -/
structure Report where
  pc : Word
  op : Word
deriving DecidableEq, Repr

/-- The frame buffer: 32 rows from the top, each of 64 pixels from the left (R28, R29). -/
abbrev Display := Vector (Vector Bool 64) 32

/-- Everything the specification gives the machine, its configuration, and three fields that stand for its ports
(`rndQueue`, `rndSteps`, `reports`: notes/assumptions/2.md and 3.md). -/
structure State where
  /-- the model arguments, parameters of the step that no step changes (R39) -/
  cfg : Config
  /-- memory, addresses 0..4095 (R40) -/
  mem : Memory
  /-- V0..VF (R14) -/
  v : Vector Byte 16
  /-- the index register I (R18) -/
  i : Word
  /-- the program counter PC (R19) -/
  pc : Word
  /-- the 16 call-stack entries (R22) -/
  stack : Vector Word 16
  /-- the stack pointer SP, 0..16, the number of entries in use (R22) -/
  sp : Fin 17
  /-- the delay timer DT (R26) -/
  dt : Byte
  /-- the sound timer ST (R26) -/
  st : Byte
  /-- the display buffer (R29) -/
  disp : Display
  /-- the draw-pending flag (R31) -/
  drawPending : Bool
  /-- the input latch, written by the host alone (R32) -/
  keys : Vector Bool 16
  /-- the engine status (R33) -/
  status : Status
  /-- MODEL: the step input `rnd` (R80) of the coming steps, as far as the host has supplied it, the next step's byte first; every step
  uses up its own byte, whatever it executes -/
  rndQueue : List Byte
  /-- MODEL: the number of the coming step, the argument of the free value `Config.freeRnd` where the host has supplied no byte -/
  rndSteps : Nat
  /-- MODEL: the report events emitted so far, the oldest first (the step output of R68, R124); no step reads it -/
  reports : List Report
deriving DecidableEq, Repr

/-- Why the machine could stop without a next state: no reason exists.  Every fatal error of the specification is a next
state with status HALTED (R69, R121), so no step raises a fault and the type has no constructor. -/
inductive Fault
deriving DecidableEq, Repr

/-- Why the model gives an instruction no meaning. -/
inductive Refusal where
  /-- raised only by an arm of `exec` whose instruction has no meaning yet; no arm does; safe, since nothing can be proved about
  such an instruction's next state -/
  | notModelled (mnemonic : String)
deriving DecidableEq, Repr

/-- What a meaning and a step answer. -/
abbrev Result := Host.Outcome State Fault Refusal

/-- The state after initialization under a configuration, before a ROM is loaded (R37; R139 steps 1 to 3).  Memory lists nothing, so it
reads as the glyph table and zeros (`initByte`). -/
def State.initial (cfg : Config) : State where
  cfg := cfg
  mem := []
  v := Vector.replicate 16 0
  i := 0
  pc := BitVec.ofNat 16 programBase
  stack := Vector.replicate 16 0
  sp := 0
  dt := 0
  st := 0
  disp := Vector.replicate 32 (Vector.replicate 64 false)
  drawPending := false
  keys := Vector.replicate 16 false
  status := .running
  rndQueue := []
  rndSteps := 0
  reports := []

/-- The machine right after reset, with the default model arguments (R37, R139, R144). -/
def State.reset : State := State.initial defaultConfig

end Sys2Proof.Machine
end

