-- ==== Sys2Proof/Machine/Ops.lean ====
section
/-!
DEFINITION. The named operations over registers, the program counter, memory, the call stack, the display and the
status, through which every meaning reads and writes the state (spec/00_scope.md R10), and raising a fatal error, the
one exception this machine has (spec/60_exceptions.md R119 to R123).
-/

namespace Sys2Proof.Machine

/-! ### General registers (R14) -/

/-- `V[x]`. -/
def State.reg (s : State) (x : Nibble) : Byte := s.v[x.val]

/-- `V[x] <- b`.  No register is hard-wired (R14). -/
def State.setReg (s : State) (x : Nibble) (b : Byte) : State := { s with v := s.v.set x.val b }

/-- The number of VF, the flag register (R15). -/
def vf : Nibble := 15

/-! ### Index register and timers -/

/-- `I <- a` (R18). -/
def State.setI (s : State) (a : Word) : State := { s with i := a }

/-- `DT <- b` (R26). -/
def State.setDt (s : State) (b : Byte) : State := { s with dt := b }

/-- `ST <- b` (R26). -/
def State.setSt (s : State) (b : Byte) : State := { s with st := b }

/-! ### Program counter (R19, R74) -/

/-- `PC <- a`. -/
def State.jump (s : State) (a : Word) : State := { s with pc := a }

/-- The generic advance `PC <- PC + 2`, past the instruction's one word (R55, R74). -/
def State.advance (s : State) : State := s.jump (s.pc + 2)

/-- A skip: `PC <- PC + 4` when the condition holds and `PC <- PC + 2` otherwise (R74, R88). -/
def State.skipIf (s : State) (c : Bool) : State := s.jump (if c then s.pc + 4 else s.pc + 2)

/-! ### Memory (R10 MemRead and MemWrite, one byte each) -/

/-- `MemRead(a, 1)`. -/
def State.readByte (s : State) (a : Nat) : Byte := s.mem.read s.cfg a

/-- `MemWrite(a, 1, b)`. -/
def State.writeByte (s : State) (a : Nat) (b : Byte) : State := { s with mem := s.mem.write s.cfg a b }

/-- The `k` bytes from address `a` upward. -/
def State.readBytes (s : State) (a k : Nat) : List Byte := (List.range k).map fun j => s.readByte (a + j)

/-- Write consecutive bytes from address `a` upward, the lowest address first. -/
def State.writeBytes (s : State) (a : Nat) : List Byte → State
  | [] => s
  | b :: bs => (s.writeByte a b).writeBytes (a + 1) bs

/-! ### Call stack (R22 to R25) -/

/-- Push: `stack[SP] <- a; SP <- SP + 1`; none when SP = 16 (R23). -/
def State.push? (s : State) (a : Word) : Option State :=
  if h : s.sp.val < 16 then
    some { s with stack := s.stack.set s.sp.val a, sp := ⟨s.sp.val + 1, by omega⟩ }
  else none

/-- Pop: `SP <- SP - 1` and the value `stack[SP]`, the entry kept as it is (R25); none when SP = 0 (R24). -/
def State.pop? (s : State) : Option (Word × State) :=
  if h : 0 < s.sp.val then
    some (s.stack[s.sp.val - 1]'(by omega), { s with sp := ⟨s.sp.val - 1, by omega⟩ })
  else none

/-! ### Display buffer (R28 to R31) -/

/-- `disp[x, y]`, column x and row y. -/
def Display.pixel (d : Display) (x : Fin 64) (y : Fin 32) : Bool := d[y.val][x.val]

/-- `disp[x, y] <- b`. -/
def Display.setPixel (d : Display) (x : Fin 64) (y : Fin 32) (b : Bool) : Display :=
  d.set y.val (d[y.val].set x.val b)

/-- The display with every pixel 0. -/
def Display.blank : Display := Vector.replicate 32 (Vector.replicate 64 false)

/-- Replace the frame buffer and raise draw-pending, which 00E0 and every completed DXYN do (R31). -/
def State.showFrame (s : State) (d : Display) : State := { s with disp := d, drawPending := true }

/-! ### Status and fatal errors -/

/-- Set the engine status (R33). -/
def State.setStatus (s : State) (x : Status) : State := { s with status := x }

/-- Whether the status is HALTED (R69). -/
def State.isHalted (s : State) : Bool :=
  match s.status with
  | .halted _ => true
  | .running => false
  | .waitingKey => false

/-- Raise a fatal error: the status becomes HALTED(rec) with the record `{code, pc, op, info}`, and nothing else
changes (R121, R122).  `s` is the state at the start of the step, so PC still addresses the faulting instruction. -/
def State.raiseFatal (s : State) (cause : FatalCause) (op : Option Word) : State :=
  s.setStatus (.halted { cause := cause, pc := s.pc, op := op })

/-- Leaving HALTED: there is no return from a fatal error (R129); only a restart, a host action between steps, which
initializes every piece of state again (R123, R143).  The configuration is fixed for a run (R39) and stays. -/
def State.restart (s : State) : State := State.initial s.cfg

/-- The code number of a fatal error (R120). -/
def FatalCause.code : FatalCause → Nat
  | .fetchOutOfRange _ => 1
  | .stackOverflow => 2
  | .stackUnderflow => 3
  | .memReadOutOfRange _ => 4
  | .memWriteOutOfRange _ => 5
  | .keyIndexOutOfRange _ => 6

/-! ### The random byte (R80, R134) -/

/-- The random byte of the coming step: the one the host has supplied for it, else a free value. -/
def State.rndByte (s : State) : Byte :=
  match s.rndQueue with
  | b :: _ => b
  | [] => Config.freeRnd s.rndSteps

/-- On to the next step's random byte: the byte of the step that ends is gone, whether or not an instruction read it (R80: an input of
every step). -/
def State.nextRnd (s : State) : State := { s with rndQueue := s.rndQueue.tail, rndSteps := s.rndSteps + 1 }

/-! ### The unknown-opcode report (R78, R124) -/

/-- Emit `UnknownOpcode(PC, op)`. -/
def State.report (s : State) (op : Word) : State := { s with reports := s.reports ++ [{ pc := s.pc, op := op }] }

end Sys2Proof.Machine
end

