-- ==== Sys2Proof/Machine/Operands.lean ====
section
/-!
DEFINITION. Operand forms: effective addresses and their range check (spec/20_memory.md R43, R44), the register range
V0..VX of FX55 and FX65, the jump target of BNNN, the glyph address of FX29, the decimal digits of FX33, the key numbered
V[X] of EX9E and EXA1, the pressed key of FX0A, and the sprite of DXYN.
-/

namespace Sys2Proof.Machine

/-! ### Register indirect through I -/

/-- The effective address `I + k`, in unbounded integers (R44). -/
def State.addrI (s : State) (k : Nat) : Nat := s.i.toNat + k

/-- The last of the `k >= 1` bytes accessed from I upward: the address a range error records (R43, R120). -/
def State.lastAddr (s : State) (k : Nat) : Nat := s.i.toNat + k - 1

/-- Whether the `k` bytes `I .. I+k-1` all exist; an instruction that accesses no byte checks nothing (R43). -/
def State.inRange (s : State) (k : Nat) : Bool := k == 0 || decide (s.lastAddr k < memSize)

/-! ### The registers V0..VX (R111, R112) -/

/-- The sixteen nibble values in rising order: register numbers and key numbers. -/
def nibbles : List Nibble := [0, 1, 2, 3, 4, 5, 6, 7, 8, 9, 10, 11, 12, 13, 14, 15]

/-- The register numbers 0..X in rising order. -/
def regsUpTo (x : Nibble) : List Nibble := nibbles.take (x.val + 1)

/-- The contents of V0..VX. -/
def State.regsBytes (s : State) (x : Nibble) : List Byte := (regsUpTo x).map s.reg

/-- `for i in 0..X: V[i] <- MemRead(I + i, 1)` (R112). -/
def State.loadRegsFromI (s : State) (x : Nibble) : State :=
  (regsUpTo x).foldl (fun t r => t.setReg r (s.readByte (s.addrI r.val))) s

/-! ### Computed values -/

/-- The target of BNNN, `zext_16(NNN) + zext_16(V[0])`, which cannot exceed 16 bits (R92). -/
def State.offsetTarget (s : State) (nnn : BitVec 12) : Word := zext16 nnn + zext16 (s.reg 0)

/-- The glyph address of FX29, `FONT_BASE + 5 * V[X]`, with no masking of V[X] (R109). -/
def State.glyphAddr (s : State) (x : Nibble) : Word := BitVec.ofNat 16 (s.cfg.fontBase.val + 5 * (s.reg x).toNat)

/-- The three decimal digits of a byte, hundreds first (R110). -/
def bcdDigits (b : Byte) : List Byte :=
  [BitVec.ofNat 8 (b.toNat / 100), BitVec.ofNat 8 (b.toNat / 10 % 10), BitVec.ofNat 8 (b.toNat % 10)]

/-! ### The input latch (R32) -/

/-- `keys[k]`. -/
def State.key (s : State) (k : Nibble) : Bool := s.keys[k.val]

/-- The latch state EX9E and EXA1 test for the key number `k`: for `k` above 15 what KEY_OOR_POLICY says, and none where
that is a fatal error (R113, R114). -/
def State.keyFor (s : State) (k : Byte) : Option Bool :=
  if h : k.toNat < 16 then some (s.key ⟨k.toNat, h⟩)
  else
    match s.cfg.keyOorPolicy with
    | .fault => none
    | .mask => some (s.key (Fin.ofNat 16 k.toNat))
    | .notPressed => some false

/-- The least pressed key, if any key is pressed (R116). -/
def State.firstKey (s : State) : Option Nibble := nibbles.find? s.key

/-! ### The sprite of DXYN (R83) -/

/-- Draw one sprite bit at column `x` and row `y` before wrapping: a set bit flips the pixel at `(x mod 64, y mod 32)` and
reports a collision when that pixel was 1; a clear bit does nothing.  The pair is the frame so far and whether a
collision has been seen. -/
def drawBit (x y : Nat) (bit : Bool) (acc : Display × Bool) : Display × Bool :=
  let px : Fin 64 := Fin.ofNat 64 x
  let py : Fin 32 := Fin.ofNat 32 y
  let old := acc.1.pixel px py
  if bit then (acc.1.setPixel px py (!old), acc.2 || old) else acc

/-- Draw the eight bits of one sprite row at row `y`, the most significant bit leftmost at column `x` (R28, R83). -/
def drawRow (x y : Nat) (b : Byte) (acc : Display × Bool) : Display × Bool :=
  (List.range 8).foldl (fun acc c => drawBit (x + c) y (b.getLsbD (7 - c)) acc) acc

/-- Draw sprite rows from the top, the first at row `y`. -/
def drawRows (x y : Nat) : List Byte → Display × Bool → Display × Bool
  | [], acc => acc
  | b :: bs, acc => drawRows x (y + 1) bs (drawRow x y b acc)

end Sys2Proof.Machine
end

