-- ==== Sys2Proof/Machine/Flags.lean ====
section
/-!
DEFINITION. The flag computations of 8XY4, 8XY5, 8XY6, 8XY7, 8XYE and DXYN (spec/43_alu.md R93, R101 to R105;
spec/41_display.md R83), their results, and the order of the two register writes (R94).  There is no flag but VF and
draw-pending (R34).
-/

namespace Sys2Proof.Machine

/-- A flag value as it is written to VF. -/
def flagByte (c : Bool) : Byte := if c then 1 else 0

/-- Carry of `a + b`: 1 iff the unbounded sum exceeds 255 (R101). -/
def carryFlag (a b : Byte) : Byte := flagByte (decide (a.toNat + b.toNat > 255))

/-- `(a + b) mod 256` (R93, R96, R101). -/
def addByte (a b : Byte) : Byte := BitVec.ofNat 8 (a.toNat + b.toNat)

/-- The flag of a subtraction `a - b`: 1 iff the minuend is strictly greater (R93, R102, R104). -/
def greaterFlag (a b : Byte) : Byte := flagByte (decide (a.toNat > b.toNat))

/-- `(a - b) mod 256`, the difference taken in unbounded integers (R102, R104). -/
def subByte (a b : Byte) : Byte := BitVec.ofInt 8 ((a.toNat : Int) - (b.toNat : Int))

/-- The bit shifted out by 8XY6, `a[0]` (R103). -/
def lowBitFlag (a : Byte) : Byte := flagByte (a.getLsbD 0)

/-- `a >> 1`, logical (R103). -/
def shrByte (a : Byte) : Byte := BitVec.ofNat 8 (a.toNat / 2)

/-- The bit shifted out by 8XYE, `a[7]` (R105). -/
def highBitFlag (a : Byte) : Byte := flagByte (a.getLsbD 7)

/-- `(a << 1) mod 256` (R105). -/
def shlByte (a : Byte) : Byte := BitVec.ofNat 8 (a.toNat * 2)

/-- The two writes of a flag-setting instruction, `VF <- f` and `V[X] <- res`, in the order FLAG_ORDER gives (R94).
Both values were computed from operands read before either write. -/
def State.writeFlagged (s : State) (x : Nibble) (res f : Byte) : State :=
  match s.cfg.flagOrder with
  | .flagThenResult => (s.setReg vf f).setReg x res
  | .resultThenFlag => (s.setReg x res).setReg vf f

end Sys2Proof.Machine
end

