-- ==== Sys2Proof/Machine/Alu.lean ====
section
/-!
DEFINITION. Register arithmetic and logic: 6XNN, 7XNN, 8XY0 to 8XYE and CXNN (spec/43_alu.md R93 to R106), each with the
engine's advance past it (R74).
-/

namespace Sys2Proof.Machine

/-- 6XNN, LD VX, NN (R95). -/
def execLdImm (x : Nibble) (nn : Byte) (s : State) : Result := .next (s.setReg x nn).advance

/-- 7XNN, ADD VX, NN: no flag (R96). -/
def execAddImm (x : Nibble) (nn : Byte) (s : State) : Result := .next (s.setReg x (addByte (s.reg x) nn)).advance

/-- 8XY0, LD VX, VY (R97). -/
def execLdReg (x y : Nibble) (s : State) : Result := .next (s.setReg x (s.reg y)).advance

/-- 8XY1, OR VX, VY: VF is not reset (R98). -/
def execOrReg (x y : Nibble) (s : State) : Result := .next (s.setReg x (s.reg x ||| s.reg y)).advance

/-- 8XY2, AND VX, VY: VF is not reset (R99). -/
def execAndReg (x y : Nibble) (s : State) : Result := .next (s.setReg x (s.reg x &&& s.reg y)).advance

/-- 8XY3, XOR VX, VY: VF is not reset (R100). -/
def execXorReg (x y : Nibble) (s : State) : Result := .next (s.setReg x (s.reg x ^^^ s.reg y)).advance

/-- 8XY4, ADD VX, VY: VF = carry (R101). -/
def execAddReg (x y : Nibble) (s : State) : Result :=
  .next (s.writeFlagged x (addByte (s.reg x) (s.reg y)) (carryFlag (s.reg x) (s.reg y))).advance

/-- 8XY5, SUB VX, VY: VF = (V[X] > V[Y]) (R102). -/
def execSub (x y : Nibble) (s : State) : Result :=
  .next (s.writeFlagged x (subByte (s.reg x) (s.reg y)) (greaterFlag (s.reg x) (s.reg y))).advance

/-- 8XY6, SHR VX: V[Y] is not read (R103). -/
def execShr (x _y : Nibble) (s : State) : Result :=
  .next (s.writeFlagged x (shrByte (s.reg x)) (lowBitFlag (s.reg x))).advance

/-- 8XY7, SUBN VX, VY: V[Y] - V[X], VF = (V[Y] > V[X]) (R104). -/
def execSubn (x y : Nibble) (s : State) : Result :=
  .next (s.writeFlagged x (subByte (s.reg y) (s.reg x)) (greaterFlag (s.reg y) (s.reg x))).advance

/-- 8XYE, SHL VX: V[Y] is not read (R105). -/
def execShl (x _y : Nibble) (s : State) : Result :=
  .next (s.writeFlagged x (shlByte (s.reg x)) (highBitFlag (s.reg x))).advance

/-- CXNN, RND VX, NN: the step's random byte AND NN (R106). -/
def execRnd (x : Nibble) (nn : Byte) (s : State) : Result :=
  .next (s.setReg x (s.rndByte &&& nn)).advance

end Sys2Proof.Machine
end

