-- ==== Sys2Proof/Machine/Control.lean ====
section
/-!
DEFINITION. Control transfer and skips: 00EE, 1NNN, 2NNN, 3XNN, 4XNN, 5XY0, 9XY0 and BNNN (spec/42_control.md R85 to R92).
Each sets PC itself (R74).
-/

namespace Sys2Proof.Machine

/-- 00EE, RET: pop the call stack into PC; STACK_UNDERFLOW on an empty stack (R85). -/
def execRet (s : State) : Result :=
  match s.pop? with
  | some (a, t) => .next (t.jump a)
  | none => .next (s.raiseFatal .stackUnderflow (some (encode .ret)))

/-- 1NNN, JP NNN (R86). -/
def execJp (nnn : BitVec 12) (s : State) : Result := .next (s.jump (zext16 nnn))

/-- 2NNN, CALL NNN: push PC + 2 and jump; STACK_OVERFLOW on a full stack (R87). -/
def execCall (nnn : BitVec 12) (s : State) : Result :=
  match s.push? (s.pc + 2) with
  | some t => .next (t.jump (zext16 nnn))
  | none => .next (s.raiseFatal .stackOverflow (some (encode (.call nnn))))

/-- 3XNN, SE VX, NN (R88). -/
def execSeImm (x : Nibble) (nn : Byte) (s : State) : Result := .next (s.skipIf (s.reg x == nn))

/-- 4XNN, SNE VX, NN (R89). -/
def execSneImm (x : Nibble) (nn : Byte) (s : State) : Result := .next (s.skipIf (s.reg x != nn))

/-- 5XY0, SE VX, VY (R90). -/
def execSeReg (x y : Nibble) (s : State) : Result := .next (s.skipIf (s.reg x == s.reg y))

/-- 9XY0, SNE VX, VY (R91). -/
def execSneReg (x y : Nibble) (s : State) : Result := .next (s.skipIf (s.reg x != s.reg y))

/-- BNNN, JP V0, NNN: the target is not reduced modulo 4096 (R92). -/
def execJpV0 (nnn : BitVec 12) (s : State) : Result := .next (s.jump (s.offsetTarget nnn))

end Sys2Proof.Machine
end

