-- ==== Sys2Proof/Machine/Display.lean ====
section
/-!
DEFINITION. The display instructions 00E0 and DXYN (spec/41_display.md R82, R83), with the engine's advance past them (R74).
-/

namespace Sys2Proof.Machine

/-- 00E0, CLS: every pixel 0 and draw-pending raised, whatever the display held (R82). -/
def execCls (s : State) : Result := .next (s.showFrame Display.blank).advance

/-- The frame and the collision report of an XOR-draw of `n` rows at `(V[X], V[Y])` from the sprite at I; both
coordinates are V[X] and V[Y] before VF is cleared (R83). -/
def State.spriteDrawn (s : State) (x y n : Nibble) : Display × Bool :=
  drawRows (s.reg x).toNat (s.reg y).toNat (s.readBytes s.i.toNat n.val) (s.disp, false)

/-- DXYN, DRW VX, VY, N: the sprite's last byte is range-checked before anything changes; N = 0 reads and checks nothing
(R43, R83). -/
def execDrw (x y n : Nibble) (s : State) : Result :=
  if s.inRange n.val then
    .next (((s.setReg vf (flagByte (s.spriteDrawn x y n).2)).showFrame (s.spriteDrawn x y n).1).advance)
  else .next (s.raiseFatal (.memReadOutOfRange (s.lastAddr n.val)) (some (encode (.drw x y n))))

end Sys2Proof.Machine
end

