-- ==== Sys2Proof/Machine/IndexMemory.lean ====
section
/-!
DEFINITION. Index register and memory transfer: ANNN, FX1E, FX29, FX33, FX55 and FX65 (spec/44_index_memory.md R107 to R112),
each with the engine's advance past it (R74).  No access changes I.
-/

namespace Sys2Proof.Machine

/-- Store bytes at `I`, `I+1`, ... after the range check of them all: MEM_WRITE_OUT_OF_RANGE before any byte is written
(R43, R110, R111). -/
def State.storeAtI (s : State) (bs : List Byte) (op : Word) : State :=
  if s.inRange bs.length then (s.writeBytes s.i.toNat bs).advance
  else s.raiseFatal (.memWriteOutOfRange (s.lastAddr bs.length)) (some op)

/-- ANNN, LD I, NNN (R107). -/
def execLdI (nnn : BitVec 12) (s : State) : Result := .next (s.setI (zext16 nnn)).advance

/-- FX1E, ADD I, VX: modulo 2^16, no flag and no fault (R108). -/
def execAddI (x : Nibble) (s : State) : Result := .next (s.setI (s.i + zext16 (s.reg x))).advance

/-- FX29, LD F, VX (R109). -/
def execLdFont (x : Nibble) (s : State) : Result := .next (s.setI (s.glyphAddr x)).advance

/-- FX33, LD B, VX: the decimal digits of V[X] to I, I+1, I+2 (R110). -/
def execLdBcd (x : Nibble) (s : State) : Result := .next (s.storeAtI (bcdDigits (s.reg x)) (encode (.ldBcd x)))

/-- FX55, LD [I], VX: V0..VX to I .. I+X (R111). -/
def execStoreRegs (x : Nibble) (s : State) : Result := .next (s.storeAtI (s.regsBytes x) (encode (.storeRegs x)))

/-- FX65, LD VX, [I]: V0..VX from I .. I+X; MEM_READ_OUT_OF_RANGE before any register is written (R112). -/
def execLoadRegs (x : Nibble) (s : State) : Result :=
  if s.inRange (x.val + 1) then .next (s.loadRegsFromI x).advance
  else .next (s.raiseFatal (.memReadOutOfRange (s.lastAddr (x.val + 1))) (some (encode (.loadRegs x))))

end Sys2Proof.Machine
end

