-- ==== Sys2Proof/Machine/TimersInput.lean ====
section
/-!
DEFINITION. Input and timer instructions: EX9E, EXA1, FX07, FX0A, FX15 and FX18 (spec/45_timers_input.md R113 to R118).
The timer tick is the engine's (R75) and is not part of these meanings.
-/

namespace Sys2Proof.Machine

/-- EX9E, SKP VX: skip if the key numbered V[X] is pressed (R113). -/
def execSkp (x : Nibble) (s : State) : Result :=
  match s.keyFor (s.reg x) with
  | some pressed => .next (s.skipIf pressed)
  | none => .next (s.raiseFatal (.keyIndexOutOfRange (s.reg x)) (some (encode (.skp x))))

/-- EXA1, SKNP VX: skip if the key numbered V[X] is not pressed (R114). -/
def execSknp (x : Nibble) (s : State) : Result :=
  match s.keyFor (s.reg x) with
  | some pressed => .next (s.skipIf (!pressed))
  | none => .next (s.raiseFatal (.keyIndexOutOfRange (s.reg x)) (some (encode (.sknp x))))

/-- FX07, LD VX, DT: DT before this step's tick (R115). -/
def execLdVxDt (x : Nibble) (s : State) : Result := .next (s.setReg x s.dt).advance

/-- FX0A, LD VX, K: the least pressed key to V[X] and past the instruction with status RUNNING; with no key pressed PC
stays and the status is WAITING_KEY (R116). -/
def execLdVxKey (x : Nibble) (s : State) : Result :=
  match s.firstKey with
  | some k => .next (((s.setReg x (BitVec.ofNat 8 k.val)).advance).setStatus .running)
  | none => .next (s.setStatus .waitingKey)

/-- FX15, LD DT, VX (R117). -/
def execLdDtVx (x : Nibble) (s : State) : Result := .next (s.setDt (s.reg x)).advance

/-- FX18, LD ST, VX (R118). -/
def execLdStVx (x : Nibble) (s : State) : Result := .next (s.setSt (s.reg x)).advance

end Sys2Proof.Machine
end

