-- ==== Sys2Proof/Machine/Engine.lean ====
section
/-!
DEFINITION. The fetch-decode-execute engine (spec/40_engine.md R68 to R81): the fetch, the timer tick, the unknown opcode,
and one step.
-/

namespace Sys2Proof.Machine

/-- `op <- MemRead(PC, 1) ++ MemRead(PC + 1, 1)`, the byte at the lower address high (R46, R71). -/
def State.fetchWord (s : State) : Word := opcodeOfBytes (s.readByte s.pc.toNat) (s.readByte (s.pc.toNat + 1))

/-- Whether the fetch is refused: PC >= FETCH_LIMIT (R70). -/
def State.fetchFaults (s : State) : Bool := decide (s.cfg.fetchLimit.val ≤ s.pc.toNat)

/-- One timer's countdown: 1 lower while above 0 (R27, R75). -/
def tickByte (b : Byte) : Byte := if b = 0 then 0 else b - 1

/-- Both timers tick (R75). -/
def State.tick (s : State) : State := { s with dt := tickByte s.dt, st := tickByte s.st }

/-- The end of a step: both timers tick, unless the step raised a fatal error (R75, R76), and the step's random byte is used up (R80).
A step that raises a fatal error leaves the random port too: no later step reads it, since only a restart leaves HALTED, and a restart
empties it (notes/assumptions/2.md). -/
def State.finish (s : State) : State := if s.isHalted then s else s.tick.nextRnd

/-- The end of a step, on the answer of a meaning. -/
def finishResult : Result → Result
  | .next s => .next s.finish
  | .fault r => .fault r
  | .refused r => .refused r

/-- An unknown opcode: report it, and past it (R78). -/
def State.skipUnknown (s : State) (op : Word) : State := (s.report op).advance

/-- The fetched word decoded and executed, or reported as unknown, and the end of the step (R72 to R79).  The status is
RUNNING unless the handler sets another one (R79). -/
def runWord (op : Word) (s : State) : Result :=
  match decode op with
  | some i => finishResult (exec i (s.setStatus .running))
  | none => .next ((s.setStatus .running).skipUnknown op).finish

/-- One step, in the order of R77 and R126: nothing while HALTED, the fetch limit, then fetch, decode and execute. -/
def engineStep (s : State) : Result :=
  if s.isHalted then .next s
  else if s.fetchFaults then .next (s.raiseFatal (.fetchOutOfRange s.pc) none)
  else runWord s.fetchWord s

/-! ### Placing an instruction where the next step fetches -/

/-- A state whose next step fetches: not HALTED, and PC below FETCH_LIMIT (else at PROGRAM_BASE).  A state that fetches
already is unchanged. -/
def State.readyToFetch (s : State) : State :=
  let t := if s.isHalted then s.setStatus .running else s
  if t.fetchFaults then t.jump (BitVec.ofNat 16 programBase) else t

/-- The opcode stored at PC and PC + 1, high byte first (R46). -/
def State.storeOpcode (s : State) (op : Word) : State :=
  s.writeBytes s.pc.toNat [opcodeHi op, opcodeLo op]

end Sys2Proof.Machine
end

