-- ==== Sys2Proof/Machine/Step.lean ====
section
/-!
DEFINITION. The step function of the machine, and the state whose next step runs a given opcode.
-/

namespace Sys2Proof.Machine

/-- One step of the machine (spec/40_engine.md R68, R77). -/
def step (s : State) : Host.Outcome State Fault Refusal := engineStep s

/-- `s` with the opcode whose bits are `w` stored where the next step fetches.  It stands for the ROM loader, which
places a program from outside the machine (spec/70_reset_and_hazards.md R141; notes/assumptions/4.md). -/
def State.withFetchWord (s : State) (nbits w : Nat) : State :=
  s.readyToFetch.storeOpcode (BitVec.ofNat 16 (w % 2 ^ nbits))

end Sys2Proof.Machine
end

