-- ==== Sys2Proof/Machine/HostPort.lean ====
section
/-!
DEFINITION. What the host may do to the machine and read from it between steps (spec/60_exceptions.md R131 to R135;
spec/70_reset_and_hazards.md R141 to R143; spec/92_eei_decisions.md D1).  A restart is `State.restart` of Ops.lean.
-/

namespace Sys2Proof.Machine

/-- Set or clear the key numbered `k` (R133). -/
def State.setKey (s : State) (k : Nibble) (b : Bool) : State := { s with keys := s.keys.set k.val b }

/-- Clear the draw-pending flag after consuming a frame (R132). -/
def State.clearDrawPending (s : State) : State := { s with drawPending := false }

/-- Copy-then-clear: the frame and the flag the host takes, and the state it leaves (R52, R132). -/
def State.takeFrame (s : State) : Display × Bool × State := (s.disp, s.drawPending, s.clearDrawPending)

/-- Provide the random byte of the first coming step that has none yet (R134, R135). -/
def State.provideRnd (s : State) (b : Byte) : State := { s with rndQueue := s.rndQueue ++ [b] }

/-- The tone signal, `tone_on = (ST != 0)`, sampled after a step (R131). -/
def State.toneOn (s : State) : Bool := s.st != 0

/-- Why the ROM loader rejects an image (R119 kind (b), R142). -/
inductive LoadError where
  /-- raised by `State.loadRom` for an image longer than MAX_ROM; safe: the specification names it ROM_TOO_LARGE -/
  | romTooLarge
deriving DecidableEq, Repr

/-- Whether an image fits the program space (R142). -/
def romFits (rom : List Byte) : Bool := decide (rom.length ≤ maxRom)

/-- Load a ROM at PROGRAM_BASE upward, or reject it and write no byte (R141, R142).  The host calls it once, after
initialization and before the first step (D29). -/
def State.loadRom (s : State) (rom : List Byte) : Except LoadError State :=
  if romFits rom then .ok (s.writeBytes programBase rom) else .error .romTooLarge

end Sys2Proof.Machine
end

