-- ==== Sys2Proof/Safety.lean ====
section
/-!
DEFINITION. The terms the statements use: the invariant of the machine (its legal states), what a fatal record must say, the pixels a
sprite covers, and what the host may do between steps.
-/

namespace Sys2Proof.Machine

/-! ### The legal states -/

/-- The largest value any rule writes to PC: 0xFFF + 0xFF, the largest target of BNNN (spec/10_state.md R21). -/
def maxPc : Nat := 0x10FE

/-- The condition under which R120 lets each cause be raised, in the state it was raised in. -/
def FatalCause.holdsIn (s : State) : FatalCause → Prop
  | .fetchOutOfRange pc => pc = s.pc ∧ s.cfg.fetchLimit.val ≤ s.pc.toNat
  | .stackOverflow => s.sp = 16
  | .stackUnderflow => s.sp = 0
  | .memReadOutOfRange addr => 4095 < addr
  | .memWriteOutOfRange addr => 4095 < addr
  | .keyIndexOutOfRange key => 15 < key.toNat ∧ s.cfg.keyOorPolicy = .fault

/-- The instructions that may raise each cause (the "raised by" column of R120). -/
def FatalCause.raisedBy : FatalCause → Instr → Bool
  | .stackOverflow, .call _ => true
  | .stackUnderflow, .ret => true
  | .memReadOutOfRange _, .drw _ _ _ => true
  | .memReadOutOfRange _, .loadRegs _ => true
  | .memWriteOutOfRange _, .ldBcd _ => true
  | .memWriteOutOfRange _, .storeRegs _ => true
  | .keyIndexOutOfRange _, .skp _ => true
  | .keyIndexOutOfRange _, .sknp _ => true
  | _, _ => false

/-- A fatal record that tells the truth about the state: PC still addresses the faulting instruction (R121), the cause's condition
holds, and the recorded opcode is an instruction that raises the cause, or none for code 1 (R120, R122). -/
def FatalRecord.truthful (rec : FatalRecord) (s : State) : Prop :=
  rec.pc = s.pc ∧ rec.cause.holdsIn s ∧
    match rec.op with
    | none => rec.cause = .fetchOutOfRange s.pc
    | some op => ∃ i, decode op = some i ∧ rec.cause.raisedBy i = true

/-- The invariant of the machine: memory in canonical form, PC and every call-stack entry at most 0x10FE, so that PC never wraps
(R21), and a HALTED status whose record is truthful. -/
structure State.Inv (s : State) : Prop where
  memory : s.mem.wf s.cfg = true
  pc : s.pc.toNat ≤ maxPc
  stack : ∀ k : Fin 16, (s.stack[k.val]).toNat ≤ maxPc
  halted : ∀ rec, s.status = .halted rec → rec.truthful s

/-! ### Sprites -/

/-- Whether the DXYN sprite of `n` rows at I, drawn at `(V[X], V[Y])`, has a set bit at the pixel `(px, py)`: bit `7 - c` of row `r`
lands on `((V[X] + c) mod 64, (V[Y] + r) mod 32)` (spec/41_display.md R83). -/
def State.spriteCovers (s : State) (x y n : Nibble) (px : Fin 64) (py : Fin 32) : Bool :=
  (List.range n.val).any fun r => (List.range 8).any fun c =>
    (s.readByte (s.i.toNat + r)).getLsbD (7 - c) &&
      (px.val == ((s.reg x).toNat + c) % 64 && py.val == ((s.reg y).toNat + r) % 32)

/-- How many sprite bits of the `n` rows at I are set. -/
def State.spriteBits (s : State) (n : Nibble) : Nat :=
  ((List.range n.val).map fun r => (List.range 8).countP fun c => (s.readByte (s.i.toNat + r)).getLsbD (7 - c)).sum

/-- How many pixels of the frame satisfy `p`. -/
def countPixels (p : Fin 64 → Fin 32 → Bool) : Nat :=
  (Finset.univ.filter fun q : Fin 64 × Fin 32 => p q.1 q.2 = true).card

/-! ### Encodings and frames -/

/-- The Encoding line of an instruction's rule: the opcode is `bits` plus its operand fields, and the instruction is selected by `mask`
and `bits` (R60). -/
def hasEncoding (i : Instr) (mask bits : Word) (fields : Nat) : Prop :=
  (encode i).toNat = bits.toNat + fields ∧ i.row = { mask := mask, bits := bits }

/-- `t` is `s` with PC at `pc` and nothing else changed; every byte of memory reads as before. -/
def State.pcFrame (s t : State) (pc : Word) : Prop :=
  t = { s with pc := pc } ∧ ∀ a, t.readByte a = s.readByte a

/-- `t` is `s` past a two-byte instruction with no general register changed but those of `touched`, and nothing else changed; every
byte of memory reads as before. -/
def State.regFrame (s t : State) (touched : List Nibble) : Prop :=
  t = { s with v := t.v, pc := s.pc + 2 } ∧ (∀ r, r ∉ touched → t.reg r = s.reg r) ∧ ∀ a, t.readByte a = s.readByte a

/-- `t` is `s` past a two-byte instruction that stored to the `k` bytes from `I` upward and changed nothing else; every byte outside
them reads as before. -/
def State.storeFrame (s t : State) (k : Nat) : Prop :=
  t = { s with mem := t.mem, pc := s.pc + 2 } ∧
    ∀ a, (a < s.i.toNat ∨ s.i.toNat + k ≤ a) → t.readByte a = s.readByte a

/-- `t` is `s` halted by a fatal error and changed in nothing else (R121, R122). -/
def State.haltsWith (s t : State) (cause : FatalCause) (op : Word) : Prop :=
  t = { s with status := .halted { cause := cause, pc := s.pc, op := some op } }

/-- `t` is `s` past a flag-setting instruction of 8XY4..8XYE that computed `res` and `flag`: with X other than 15 both registers hold
their values, and with X = 15 VF holds the one FLAG_ORDER writes last (R94). -/
def State.flagged (s t : State) (x : Nibble) (res flag : Nat) : Prop :=
  s.regFrame t [x, vf] ∧
    (x ≠ vf → (t.reg x).toNat = res ∧ (t.reg vf).toNat = flag) ∧
    (x = vf → s.cfg.flagOrder = .flagThenResult → (t.reg vf).toNat = res) ∧
    (x = vf → s.cfg.flagOrder = .resultThenFlag → (t.reg vf).toNat = flag)

/-- The general registers an instruction writes (the "written by" column of R16, with R112's range for FX65). -/
def writesReg : Instr → Nibble → Bool
  | .ldImm x _, r => r == x
  | .addImm x _, r => r == x
  | .ldReg x _, r => r == x
  | .orReg x _, r => r == x
  | .andReg x _, r => r == x
  | .xorReg x _, r => r == x
  | .addReg x _, r => r == x || r == vf
  | .sub x _, r => r == x || r == vf
  | .shr x _, r => r == x || r == vf
  | .subn x _, r => r == x || r == vf
  | .shl x _, r => r == x || r == vf
  | .rnd x _, r => r == x
  | .drw _ _ _, r => r == vf
  | .ldVxDt x, r => r == x
  | .ldVxKey x, r => r == x
  | .loadRegs x, r => decide (r ≤ x)
  | _, _ => false

/-- The "condition" and "info recorded" columns of R120: the fatal error an instruction raises in a state, if any, with the last byte
address of an access or the key number. -/
def fatalCondition : Instr → State → Option FatalCause
  | .call _, s => if s.sp = 16 then some .stackOverflow else none
  | .ret, s => if s.sp = 0 then some .stackUnderflow else none
  | .drw _ _ n, s =>
    if 1 ≤ n.val ∧ 4095 < s.i.toNat + n.val - 1 then some (.memReadOutOfRange (s.i.toNat + n.val - 1)) else none
  | .loadRegs x, s => if 4095 < s.i.toNat + x.val then some (.memReadOutOfRange (s.i.toNat + x.val)) else none
  | .ldBcd _, s => if 4095 < s.i.toNat + 2 then some (.memWriteOutOfRange (s.i.toNat + 2)) else none
  | .storeRegs x, s => if 4095 < s.i.toNat + x.val then some (.memWriteOutOfRange (s.i.toNat + x.val)) else none
  | .skp x, s => if 15 < (s.reg x).toNat ∧ s.cfg.keyOorPolicy = .fault then some (.keyIndexOutOfRange (s.reg x)) else none
  | .sknp x, s => if 15 < (s.reg x).toNat ∧ s.cfg.keyOorPolicy = .fault then some (.keyIndexOutOfRange (s.reg x)) else none
  | _, _ => none

/-- The "PC update" column of R60: whether PC may end at `pc` after the instruction executed in `s` without a fatal error. -/
def State.pcAfter (s : State) (pc : Word) : Instr → Prop
  | .ret => ∃ k : Fin 16, s.sp.val = k.val + 1 ∧ pc = s.stack[k.val]
  | .jp nnn => pc.toNat = nnn.toNat
  | .call nnn => pc.toNat = nnn.toNat
  | .jpV0 nnn => pc.toNat = nnn.toNat + (s.reg 0).toNat
  | .seImm _ _ | .sneImm _ _ | .seReg _ _ | .sneReg _ _ | .skp _ | .sknp _ => pc = s.pc + 2 ∨ pc = s.pc + 4
  | .ldVxKey _ => ((∃ k, s.key k = true) ∧ pc = s.pc + 2) ∨ ((∀ k, s.key k = false) ∧ pc = s.pc)
  | .cls | .ldImm _ _ | .addImm _ _ | .ldReg _ _ | .orReg _ _ | .andReg _ _ | .xorReg _ _ | .addReg _ _ | .sub _ _
  | .shr _ _ | .subn _ _ | .shl _ _ | .ldI _ | .rnd _ _ | .drw _ _ _ | .ldVxDt _ | .ldDtVx _ | .ldStVx _ | .addI _
  | .ldFont _ | .ldBcd _ | .storeRegs _ | .loadRegs _ => pc = s.pc + 2

/-! ### The host between steps (R135) -/

/-- What the host may do between two steps. -/
inductive HostAction where
  | setKey (k : Nibble) (pressed : Bool)
  | clearDrawPending
  | provideRnd (b : Byte)
  | restart
deriving DecidableEq, Repr

/-- The effect of a host action. -/
def State.host (s : State) : HostAction → State
  | .setKey k b => s.setKey k b
  | .clearDrawPending => s.clearDrawPending
  | .provideRnd b => s.provideRnd b
  | .restart => s.restart

/-- A step taken by a machine that was not halted. -/
def State.runs (s t : State) : Prop := s.isHalted = false ∧ step s = .next t

end Sys2Proof.Machine
end

