-- ==== Sys2Proof/Certificates/Slice0/Obligations.lean ====
section
/-!
DEFINITION. The statements for the provers, listed in OBLIGATIONS.json.  Each docstring names the rule of the specification it formalises.
-/

open Sys2Proof Sys2Proof.Machine

/-! ### Register arithmetic and logic (spec/43_alu.md) -/

/-- R95: 6XNN loads NN into V[X] and changes nothing else. -/
def Obligations.LoadImmediate : Prop :=
  ∀ (x : Nibble) (nn : Byte) (s : State),
    hasEncoding (.ldImm x nn) 0xF000 0x6000 (256 * x.val + nn.toNat) ∧
    ∃ t, exec (.ldImm x nn) s = .next t ∧ t.reg x = nn ∧ s.regFrame t [x]

/-- R96: 7XNN adds NN modulo 256 and sets no flag. -/
def Obligations.AddImmediateSetsNoFlag : Prop :=
  ∀ (x : Nibble) (nn : Byte) (s : State),
    hasEncoding (.addImm x nn) 0xF000 0x7000 (256 * x.val + nn.toNat) ∧
    ∃ t, exec (.addImm x nn) s = .next t ∧ (t.reg x).toNat = ((s.reg x).toNat + nn.toNat) % 256 ∧ s.regFrame t [x]

/-- R97: 8XY0 copies V[Y] to V[X]. -/
def Obligations.CopyRegister : Prop :=
  ∀ (x y : Nibble) (s : State),
    hasEncoding (.ldReg x y) 0xF00F 0x8000 (256 * x.val + 16 * y.val) ∧
    ∃ t, exec (.ldReg x y) s = .next t ∧ t.reg x = s.reg y ∧ s.regFrame t [x]

/-- R98, R99, R100: 8XY1, 8XY2 and 8XY3 are the bitwise operations, and VF is not reset. -/
def Obligations.BitwiseOperationsKeepFlag : Prop :=
  ∀ (x y : Nibble) (s : State),
    (hasEncoding (.orReg x y) 0xF00F 0x8001 (256 * x.val + 16 * y.val) ∧
      ∃ t, exec (.orReg x y) s = .next t ∧ s.regFrame t [x] ∧
        ∀ k < 8, (t.reg x).getLsbD k = ((s.reg x).getLsbD k || (s.reg y).getLsbD k)) ∧
    (hasEncoding (.andReg x y) 0xF00F 0x8002 (256 * x.val + 16 * y.val) ∧
      ∃ t, exec (.andReg x y) s = .next t ∧ s.regFrame t [x] ∧
        ∀ k < 8, (t.reg x).getLsbD k = ((s.reg x).getLsbD k && (s.reg y).getLsbD k)) ∧
    (hasEncoding (.xorReg x y) 0xF00F 0x8003 (256 * x.val + 16 * y.val) ∧
      ∃ t, exec (.xorReg x y) s = .next t ∧ s.regFrame t [x] ∧
        ∀ k < 8, (t.reg x).getLsbD k = ((s.reg x).getLsbD k ^^ (s.reg y).getLsbD k))

/-- R101: 8XY4 adds modulo 256 with VF = carry, in the write order of R94.  For X = 15 the
statement names FLAG_ORDER, the model argument of R94 (D8; notes/assumptions/1.md), and holds for both its values. -/
def Obligations.AddSetsCarry : Prop :=
  ∀ (x y : Nibble) (s : State),
    hasEncoding (.addReg x y) 0xF00F 0x8004 (256 * x.val + 16 * y.val) ∧
    ∃ t, exec (.addReg x y) s = .next t ∧
      s.flagged t x (((s.reg x).toNat + (s.reg y).toNat) % 256)
        (if (s.reg x).toNat + (s.reg y).toNat > 255 then 1 else 0)

/-- R102: 8XY5 subtracts V[Y] from V[X] modulo 256 with VF = (V[X] > V[Y]), strictly.  For X = 15 the
statement names FLAG_ORDER, the model argument of R94 (D8; notes/assumptions/1.md), and holds for both its values. -/
def Obligations.SubSetsStrictlyGreater : Prop :=
  ∀ (x y : Nibble) (s : State),
    hasEncoding (.sub x y) 0xF00F 0x8005 (256 * x.val + 16 * y.val) ∧
    ∃ t, exec (.sub x y) s = .next t ∧
      s.flagged t x (((s.reg x).toNat + 256 - (s.reg y).toNat) % 256)
        (if (s.reg x).toNat > (s.reg y).toNat then 1 else 0)

/-- R103: 8XY6 shifts V[X] right by one, VF = the bit shifted out; V[Y] is not read, whatever Y is.  For X = 15 the
statement names FLAG_ORDER, the model argument of R94 (D8; notes/assumptions/1.md), and holds for both its values. -/
def Obligations.ShiftRightIgnoresY : Prop :=
  ∀ (x y : Nibble) (s : State),
    hasEncoding (.shr x y) 0xF00F 0x8006 (256 * x.val + 16 * y.val) ∧
    ∃ t, (∀ y', exec (.shr x y') s = .next t) ∧ s.flagged t x ((s.reg x).toNat / 2) ((s.reg x).toNat % 2)

/-- R104: 8XY7 subtracts V[X] from V[Y] modulo 256 with VF = (V[Y] > V[X]), strictly.  For X = 15 the
statement names FLAG_ORDER, the model argument of R94 (D8; notes/assumptions/1.md), and holds for both its values. -/
def Obligations.SubnSetsStrictlyGreater : Prop :=
  ∀ (x y : Nibble) (s : State),
    hasEncoding (.subn x y) 0xF00F 0x8007 (256 * x.val + 16 * y.val) ∧
    ∃ t, exec (.subn x y) s = .next t ∧
      s.flagged t x (((s.reg y).toNat + 256 - (s.reg x).toNat) % 256)
        (if (s.reg y).toNat > (s.reg x).toNat then 1 else 0)

/-- R105: 8XYE shifts V[X] left by one modulo 256, VF = the bit shifted out; V[Y] is not read, whatever Y is.  For X = 15 the
statement names FLAG_ORDER, the model argument of R94 (D8; notes/assumptions/1.md), and holds for both its values. -/
def Obligations.ShiftLeftIgnoresY : Prop :=
  ∀ (x y : Nibble) (s : State),
    hasEncoding (.shl x y) 0xF00F 0x800E (256 * x.val + 16 * y.val) ∧
    ∃ t, (∀ y', exec (.shl x y') s = .next t) ∧ s.flagged t x ((s.reg x).toNat * 2 % 256) ((s.reg x).toNat / 128)

/-- R106 and R80: CXNN writes the step's random byte AND NN, for every random byte.  Which byte that is, the one the host supplied for the
step or the free value where it supplied none, is the model's form of the input (notes/assumptions/2.md); the free value is uninterpreted,
so this holds for every value of it. -/
def Obligations.RandomByteMasked : Prop :=
  ∀ (x : Nibble) (nn : Byte) (s : State),
    hasEncoding (.rnd x nn) 0xF000 0xC000 (256 * x.val + nn.toNat) ∧
    ∃ t b, exec (.rnd x nn) s = .next t ∧
      (∀ c q, s.rndQueue = c :: q → b = c) ∧ (s.rndQueue = [] → b = Config.freeRnd s.rndSteps) ∧
      (∀ k < 8, (t.reg x).getLsbD k = (b.getLsbD k && nn.getLsbD k)) ∧ s.regFrame t [x]

/-! ### Control transfer and skips (spec/42_control.md) -/

/-- R86 and R92: 1NNN jumps to NNN, BNNN to NNN + V[0] with no reduction; nothing else changes.  That BNNN's
target is not reduced modulo 4096 is the spec's decision D6 (notes/assumptions/10.md). -/
def Obligations.JumpsSetPcAlone : Prop :=
  ∀ (nnn : BitVec 12) (s : State),
    (hasEncoding (.jp nnn) 0xF000 0x1000 nnn.toNat ∧
      ∃ t, exec (.jp nnn) s = .next t ∧ t.pc.toNat = nnn.toNat ∧ s.pcFrame t t.pc) ∧
    (hasEncoding (.jpV0 nnn) 0xF000 0xB000 nnn.toNat ∧
      ∃ t, exec (.jpV0 nnn) s = .next t ∧ t.pc.toNat = nnn.toNat + (s.reg 0).toNat ∧ s.pcFrame t t.pc)

/-- R87: 2NNN pushes PC + 2 and jumps to NNN; with SP = 16 it raises STACK_OVERFLOW and changes nothing else. -/
def Obligations.CallPushesReturnAddress : Prop :=
  ∀ (nnn : BitVec 12) (s : State),
    hasEncoding (.call nnn) 0xF000 0x2000 nnn.toNat ∧
    (∀ k : Fin 16, s.sp.val = k.val →
      ∃ t, exec (.call nnn) s = .next t ∧ t.stack[k.val] = s.pc + 2 ∧ t.sp.val = k.val + 1 ∧ t.pc.toNat = nnn.toNat ∧
        (∀ j : Fin 16, j ≠ k → t.stack[j.val] = s.stack[j.val]) ∧
        t = { s with stack := t.stack, sp := t.sp, pc := t.pc } ∧ ∀ a, t.readByte a = s.readByte a) ∧
    (s.sp.val = 16 → ∃ t, exec (.call nnn) s = .next t ∧ s.haltsWith t .stackOverflow (encode (.call nnn)))

/-- R85: 00EE pops the call stack into PC, the entry kept; with SP = 0 it raises STACK_UNDERFLOW and changes nothing else. -/
def Obligations.ReturnPopsIntoPc : Prop :=
  ∀ s : State,
    hasEncoding .ret 0xFFFF 0x00EE 0 ∧
    (∀ k : Fin 16, s.sp.val = k.val + 1 →
      ∃ t, exec .ret s = .next t ∧ t.pc = s.stack[k.val] ∧ t.sp.val = k.val ∧
        t = { s with sp := t.sp, pc := t.pc } ∧ ∀ a, t.readByte a = s.readByte a) ∧
    (s.sp.val = 0 → ∃ t, exec .ret s = .next t ∧ s.haltsWith t .stackUnderflow 0x00EE)

/-- R88, R89, R90, R91: the four register skips move PC by 4 when their condition holds and by 2 otherwise, and change nothing else. -/
def Obligations.SkipsMovePcAlone : Prop :=
  ∀ (x y : Nibble) (nn : Byte) (s : State),
    (hasEncoding (.seImm x nn) 0xF000 0x3000 (256 * x.val + nn.toNat) ∧
      ∃ t, exec (.seImm x nn) s = .next t ∧ s.pcFrame t (if (s.reg x).toNat = nn.toNat then s.pc + 4 else s.pc + 2)) ∧
    (hasEncoding (.sneImm x nn) 0xF000 0x4000 (256 * x.val + nn.toNat) ∧
      ∃ t, exec (.sneImm x nn) s = .next t ∧ s.pcFrame t (if (s.reg x).toNat = nn.toNat then s.pc + 2 else s.pc + 4)) ∧
    (hasEncoding (.seReg x y) 0xF00F 0x5000 (256 * x.val + 16 * y.val) ∧
      ∃ t, exec (.seReg x y) s = .next t ∧
        s.pcFrame t (if (s.reg x).toNat = (s.reg y).toNat then s.pc + 4 else s.pc + 2)) ∧
    (hasEncoding (.sneReg x y) 0xF00F 0x9000 (256 * x.val + 16 * y.val) ∧
      ∃ t, exec (.sneReg x y) s = .next t ∧
        s.pcFrame t (if (s.reg x).toNat = (s.reg y).toNat then s.pc + 2 else s.pc + 4))

/-- R87, corner case (the round-trip law): 2NNN followed by 00EE restores PC to the instruction after the call and SP to its depth. -/
def Obligations.CallThenReturnRoundTrip : Prop :=
  ∀ (nnn : BitVec 12) (s : State), s.sp.val < 16 →
    ∃ t u, exec (.call nnn) s = .next t ∧ exec .ret t = .next u ∧ u.pc = s.pc + 2 ∧ u.sp = s.sp ∧
      u = { s with pc := u.pc, stack := u.stack }

/-! ### Display (spec/41_display.md) -/

/-- R82: 00E0 clears every pixel and raises draw-pending, and changes nothing else. -/
def Obligations.ClearScreen : Prop :=
  ∀ s : State,
    hasEncoding .cls 0xFFFF 0x00E0 0 ∧
    ∃ t, exec .cls s = .next t ∧ (∀ px py, t.disp.pixel px py = false) ∧ t.drawPending = true ∧
      t = { s with disp := t.disp, drawPending := t.drawPending, pc := s.pc + 2 } ∧ ∀ a, t.readByte a = s.readByte a

/-- R83: DXYN flips exactly the pixels under a set sprite bit, each coordinate wrapped, at the position V[X], V[Y] held before VF is
written; VF = 1 iff one of them was 1; draw-pending is raised; nothing else changes.  A sprite that does not lie in memory raises
MEM_READ_OUT_OF_RANGE and changes nothing else.  The position
read before VF, the empty sprite and the unconditional draw-pending are the spec's decisions D9, D10, D11 (notes/assumptions/11.md). -/
def Obligations.DrawFlipsCoveredPixels : Prop :=
  ∀ (x y n : Nibble) (s : State),
    hasEncoding (.drw x y n) 0xF000 0xD000 (256 * x.val + 16 * y.val + n.val) ∧
    ((n.val = 0 ∨ s.i.toNat + n.val - 1 ≤ 4095) →
      ∃ t, exec (.drw x y n) s = .next t ∧
        (∀ px py, t.disp.pixel px py = (s.disp.pixel px py ^^ s.spriteCovers x y n px py)) ∧
        ((∃ px py, s.spriteCovers x y n px py = true ∧ s.disp.pixel px py = true) → t.reg vf = 1) ∧
        ((¬ ∃ px py, s.spriteCovers x y n px py = true ∧ s.disp.pixel px py = true) → t.reg vf = 0) ∧
        t.drawPending = true ∧
        t = { s with v := t.v, disp := t.disp, drawPending := t.drawPending, pc := s.pc + 2 } ∧
        (∀ r, r ≠ vf → t.reg r = s.reg r) ∧ ∀ a, t.readByte a = s.readByte a) ∧
    (¬ (n.val = 0 ∨ s.i.toNat + n.val - 1 ≤ 4095) →
      ∃ t, exec (.drw x y n) s = .next t ∧
        s.haltsWith t (.memReadOutOfRange (s.i.toNat + n.val - 1)) (encode (.drw x y n)))

/-- R84, first property, with the condition R83 gives it: drawing the same sprite twice at the same position restores the frame, and the
second draw reports VF = 1 exactly when the first one turned a pixel on (notes/assumptions/7.md). -/
def Obligations.DrawTwiceRestoresFrame : Prop :=
  ∀ (x y n : Nibble) (s t u : State), (n.val = 0 ∨ s.i.toNat + n.val ≤ 4096) →
    exec (.drw x y n) s = .next t → t.reg x = s.reg x → t.reg y = s.reg y → exec (.drw x y n) t = .next u →
    u.disp = s.disp ∧
      (u.reg vf = 1 ↔ ∃ px py, s.spriteCovers x y n px py = true ∧ s.disp.pixel px py = false)

/-- R84, first property, word for word: the second draw sets VF = 1 WHENEVER the sprite has a set bit.  R83 makes this FALSE where every
covered pixel was on before the first draw (notes/assumptions/7.md): this statement is expected to be refuted. -/
def Obligations.SecondDrawAlwaysCollides : Prop :=
  ∀ (x y n : Nibble) (s t u : State), (n.val = 0 ∨ s.i.toNat + n.val ≤ 4096) → 0 < s.spriteBits n →
    exec (.drw x y n) s = .next t → t.reg x = s.reg x → t.reg y = s.reg y → exec (.drw x y n) t = .next u →
    u.reg vf = 1

/-- R84, third property: the pixels on after a draw are those before, plus the set sprite bits, minus twice the collisions. -/
def Obligations.DrawPixelCount : Prop :=
  ∀ (x y n : Nibble) (s t : State), (n.val = 0 ∨ s.i.toNat + n.val ≤ 4096) → exec (.drw x y n) s = .next t →
    countPixels t.disp.pixel + 2 * countPixels (fun px py => s.spriteCovers x y n px py && s.disp.pixel px py) =
      countPixels s.disp.pixel + s.spriteBits n

/-! ### Index register and memory transfer (spec/44_index_memory.md) -/

/-- R107, R108, R109: ANNN, FX1E and FX29 write I (NNN; I + V[X] modulo 2^16; FONT_BASE + 5 * V[X] with no masking), set no flag and
change nothing else.  The wrap of FX1E and the missing
mask of FX29 are the spec's decisions D7 and D13 (notes/assumptions/10.md, 12.md). -/
def Obligations.IndexWrites : Prop :=
  ∀ (nnn : BitVec 12) (x : Nibble) (s : State),
    (hasEncoding (.ldI nnn) 0xF000 0xA000 nnn.toNat ∧
      ∃ t, exec (.ldI nnn) s = .next t ∧ t.i.toNat = nnn.toNat ∧
        t = { s with i := t.i, pc := s.pc + 2 } ∧ ∀ a, t.readByte a = s.readByte a) ∧
    (hasEncoding (.addI x) 0xF0FF 0xF01E (256 * x.val) ∧
      ∃ t, exec (.addI x) s = .next t ∧ t.i.toNat = (s.i.toNat + (s.reg x).toNat) % 65536 ∧
        t = { s with i := t.i, pc := s.pc + 2 } ∧ ∀ a, t.readByte a = s.readByte a) ∧
    (hasEncoding (.ldFont x) 0xF0FF 0xF029 (256 * x.val) ∧
      ∃ t, exec (.ldFont x) s = .next t ∧ t.i.toNat = s.cfg.fontBase.val + 5 * (s.reg x).toNat ∧
        t = { s with i := t.i, pc := s.pc + 2 } ∧ ∀ a, t.readByte a = s.readByte a)

/-- R110: FX33 stores the three decimal digits of V[X] at I, I+1, I+2 and nothing else; above 4095 it raises
MEM_WRITE_OUT_OF_RANGE and changes nothing else.  The reads back need memory in its canonical form (StepKeepsInvariant). -/
def Obligations.StoreDecimalDigits : Prop :=
  ∀ (x : Nibble) (s : State),
    hasEncoding (.ldBcd x) 0xF0FF 0xF033 (256 * x.val) ∧
    (s.i.toNat + 2 ≤ 4095 →
      ∃ t, exec (.ldBcd x) s = .next t ∧ s.storeFrame t 3 ∧
        (s.mem.wf s.cfg = true →
          (t.readByte s.i.toNat).toNat = (s.reg x).toNat / 100 ∧
          (t.readByte (s.i.toNat + 1)).toNat = (s.reg x).toNat / 10 % 10 ∧
          (t.readByte (s.i.toNat + 2)).toNat = (s.reg x).toNat % 10)) ∧
    (4095 < s.i.toNat + 2 →
      ∃ t, exec (.ldBcd x) s = .next t ∧ s.haltsWith t (.memWriteOutOfRange (s.i.toNat + 2)) (encode (.ldBcd x)))

/-- R111: FX55 stores V0..VX at I .. I+X and nothing else, I unchanged; above 4095 it raises MEM_WRITE_OUT_OF_RANGE and changes
nothing else.  That I is unchanged is the spec's decision D15 (notes/assumptions/14.md). -/
def Obligations.StoreRegisters : Prop :=
  ∀ (x : Nibble) (s : State),
    hasEncoding (.storeRegs x) 0xF0FF 0xF055 (256 * x.val) ∧
    (s.i.toNat + x.val ≤ 4095 →
      ∃ t, exec (.storeRegs x) s = .next t ∧ s.storeFrame t (x.val + 1) ∧
        (s.mem.wf s.cfg = true → ∀ r : Nibble, r ≤ x → t.readByte (s.i.toNat + r.val) = s.reg r)) ∧
    (4095 < s.i.toNat + x.val →
      ∃ t, exec (.storeRegs x) s = .next t ∧
        s.haltsWith t (.memWriteOutOfRange (s.i.toNat + x.val)) (encode (.storeRegs x)))

/-- R112: FX65 loads V0..VX from I .. I+X and nothing else, I unchanged; above 4095 it raises MEM_READ_OUT_OF_RANGE and changes
nothing else. -/
def Obligations.LoadRegisters : Prop :=
  ∀ (x : Nibble) (s : State),
    hasEncoding (.loadRegs x) 0xF0FF 0xF065 (256 * x.val) ∧
    (s.i.toNat + x.val ≤ 4095 →
      ∃ t, exec (.loadRegs x) s = .next t ∧ s.regFrame t (nibbles.filter (· ≤ x)) ∧
        ∀ r : Nibble, r ≤ x → t.reg r = s.readByte (s.i.toNat + r.val)) ∧
    (4095 < s.i.toNat + x.val →
      ∃ t, exec (.loadRegs x) s = .next t ∧
        s.haltsWith t (.memReadOutOfRange (s.i.toNat + x.val)) (encode (.loadRegs x)))

/-- R53: bytes stored by FX55 are the opcode a later fetch at their address forms, the lower address high. -/
def Obligations.StoredOpcodeIsFetched : Prop :=
  ∀ (x r : Nibble) (s t : State), s.mem.wf s.cfg = true → s.i.toNat + x.val ≤ 4095 → r < x →
    exec (.storeRegs x) s = .next t →
    (t.jump (s.i + BitVec.ofNat 16 r.val)).fetchWord.toNat = 256 * (s.reg r).toNat + (s.reg (r + 1)).toNat

/-! ### Input and timers (spec/45_timers_input.md) -/

/-- R113: EX9E skips when the key numbered V[X] is pressed; a number above 15 is treated as KEY_OOR_POLICY says.  The
statement holds for all three values of that model argument (D12; notes/assumptions/1.md). -/
def Obligations.SkipIfKeyPressed : Prop :=
  ∀ (x : Nibble) (s : State),
    hasEncoding (.skp x) 0xF0FF 0xE09E (256 * x.val) ∧
    (∀ k : Nibble, ((s.reg x).toNat = k.val ∨
        15 < (s.reg x).toNat ∧ s.cfg.keyOorPolicy = .mask ∧ (s.reg x).toNat % 16 = k.val) →
      ∃ t, exec (.skp x) s = .next t ∧ s.pcFrame t (if s.key k = true then s.pc + 4 else s.pc + 2)) ∧
    (15 < (s.reg x).toNat → s.cfg.keyOorPolicy = .notPressed →
      ∃ t, exec (.skp x) s = .next t ∧ s.pcFrame t (s.pc + 2)) ∧
    (15 < (s.reg x).toNat → s.cfg.keyOorPolicy = .fault →
      ∃ t, exec (.skp x) s = .next t ∧ s.haltsWith t (.keyIndexOutOfRange (s.reg x)) (encode (.skp x)))

/-- R114: EXA1 skips when the key numbered V[X] is not pressed; a number above 15 is treated as KEY_OOR_POLICY says.  The
statement holds for all three values of that model argument (D12; notes/assumptions/1.md). -/
def Obligations.SkipIfKeyNotPressed : Prop :=
  ∀ (x : Nibble) (s : State),
    hasEncoding (.sknp x) 0xF0FF 0xE0A1 (256 * x.val) ∧
    (∀ k : Nibble, ((s.reg x).toNat = k.val ∨
        15 < (s.reg x).toNat ∧ s.cfg.keyOorPolicy = .mask ∧ (s.reg x).toNat % 16 = k.val) →
      ∃ t, exec (.sknp x) s = .next t ∧ s.pcFrame t (if s.key k = true then s.pc + 2 else s.pc + 4)) ∧
    (15 < (s.reg x).toNat → s.cfg.keyOorPolicy = .notPressed →
      ∃ t, exec (.sknp x) s = .next t ∧ s.pcFrame t (s.pc + 4)) ∧
    (15 < (s.reg x).toNat → s.cfg.keyOorPolicy = .fault →
      ∃ t, exec (.sknp x) s = .next t ∧ s.haltsWith t (.keyIndexOutOfRange (s.reg x)) (encode (.sknp x)))

/-- R116: FX0A stores the least pressed key and goes on with status RUNNING; with no key pressed it changes nothing but the status, which
becomes WAITING_KEY.  The waiting status and the test of the key's level are the spec's decision D14 (notes/assumptions/13.md). -/
def Obligations.WaitForKey : Prop :=
  ∀ (x : Nibble) (s : State),
    hasEncoding (.ldVxKey x) 0xF0FF 0xF00A (256 * x.val) ∧
    (∀ k : Nibble, s.key k = true → (∀ j, j < k → s.key j = false) →
      ∃ t, exec (.ldVxKey x) s = .next t ∧ (t.reg x).toNat = k.val ∧ (∀ r, r ≠ x → t.reg r = s.reg r) ∧
        t = { s with v := t.v, pc := s.pc + 2, status := .running } ∧ ∀ a, t.readByte a = s.readByte a) ∧
    ((∀ k, s.key k = false) →
      ∃ t, exec (.ldVxKey x) s = .next t ∧ t = { s with status := .waitingKey } ∧ ∀ a, t.readByte a = s.readByte a)

/-- The handlers of FX07, FX15 and FX18 (their rules R115, R117, R118 hold of a whole step: TimerInstructionsInAStep): each moves V[X]
from or to a timer and changes nothing else.  That they hold of the handler alone is the model's
division of the step (notes/assumptions/6.md). -/
def Obligations.TimerMoves : Prop :=
  ∀ (x : Nibble) (s : State),
    (∃ t, exec (.ldVxDt x) s = .next t ∧ t.reg x = s.dt ∧ s.regFrame t [x]) ∧
    (∃ t, exec (.ldDtVx x) s = .next t ∧ t.dt = s.reg x ∧
      t = { s with dt := t.dt, pc := s.pc + 2 } ∧ ∀ a, t.readByte a = s.readByte a) ∧
    (∃ t, exec (.ldStVx x) s = .next t ∧ t.st = s.reg x ∧
      t = { s with st := t.st, pc := s.pc + 2 } ∧ ∀ a, t.readByte a = s.readByte a)

/-- R115, R117, R118, in a step of the engine: FX07 reads DT before the tick, and a value written by FX15 or FX18 is ticked once in the
same step, so that the tone is on after FX18 exactly for V[X] > 1.  The values after the tick are what R117 and R118 derive from R75 and
R131; that the tone is `ST != 0` after the step is the spec's decision D27 (notes/assumptions/22.md). -/
def Obligations.TimerInstructionsInAStep : Prop :=
  ∀ (x : Nibble) (s t : State), s.runs t → s.fetchFaults = false →
    (hasEncoding (.ldVxDt x) 0xF0FF 0xF007 (256 * x.val) ∧ hasEncoding (.ldDtVx x) 0xF0FF 0xF015 (256 * x.val) ∧
      hasEncoding (.ldStVx x) 0xF0FF 0xF018 (256 * x.val)) ∧
    (s.fetchWord = encode (.ldVxDt x) → t.reg x = s.dt ∧ t.dt.toNat = s.dt.toNat - 1) ∧
    (s.fetchWord = encode (.ldDtVx x) → t.dt.toNat = (s.reg x).toNat - 1) ∧
    (s.fetchWord = encode (.ldStVx x) → t.st.toNat = (s.reg x).toNat - 1 ∧ (t.toneOn = true ↔ 1 < (s.reg x).toNat))

/-! ### The engine (spec/40_engine.md, spec/60_exceptions.md) -/

/-- R71, R72, R73 and R77: when the two bytes at PC, the first one high, decode to `i`, a step is exec of `i` and the end of the step (the
tick and the next random byte, neither after a fatal error).  That the status RUNNING, which R77 sets at the end, is set before exec, and
that the end of the step stands outside exec, is the model's division of the step (notes/assumptions/6.md). -/
def Obligations.StepRunsDecodedInstruction : Prop :=
  ∀ (i : Instr) (s : State), s.isHalted = false → s.pc.toNat < s.cfg.fetchLimit.val →
    decode (BitVec.ofNat 16 (256 * (s.readByte s.pc.toNat).toNat + (s.readByte (s.pc.toNat + 1)).toNat)) = some i →
    step s = finishResult (exec i (s.setStatus .running))

/-- R78: an unknown opcode is reported, PC advances by 2, the timers tick, the status is RUNNING, and nothing else changes but that the
step's random byte is used up.  What the report holds is the spec's decision D18; the fields `reports`, `rndQueue` and `rndSteps` are the
model's (notes/assumptions/3.md, 2.md). -/
def Obligations.UnknownOpcodeReportedAndSkipped : Prop :=
  ∀ s : State, s.isHalted = false → s.pc.toNat < s.cfg.fetchLimit.val → decode s.fetchWord = none →
    ∃ t, step s = .next t ∧ t.reports = s.reports ++ [{ pc := s.pc, op := s.fetchWord }] ∧
      t.dt.toNat = s.dt.toNat - 1 ∧ t.st.toNat = s.st.toNat - 1 ∧
      t = { s with
        pc := s.pc + 2
        dt := t.dt
        st := t.st
        status := .running
        reports := t.reports
        rndQueue := s.rndQueue.tail
        rndSteps := s.rndSteps + 1 }

/-- R70: a step at PC >= FETCH_LIMIT raises FETCH_OUT_OF_RANGE and changes nothing but the status.  The default 4094 is the spec's decision
D5 (notes/assumptions/1.md), and that the record holds no opcode its decision D20 (R122; notes/assumptions/16.md). -/
def Obligations.FetchLimitIsFatal : Prop :=
  defaultConfig.fetchLimit.val = 4094 ∧
  ∀ s : State, s.isHalted = false → s.cfg.fetchLimit.val ≤ s.pc.toNat →
    step s = .next { s with status := .halted { cause := .fetchOutOfRange s.pc, pc := s.pc, op := none } }

/-- R69, R123: once halted, every later step is a no-op, for any number of steps; of all the host may do between steps only a restart
leaves that status, and it initializes the machine again.  A halted engine's steps and the restart are the
spec's decisions D17 and D22 (notes/assumptions/16.md, 19.md). -/
def Obligations.HaltedForever : Prop :=
  ∀ (s : State) (rec : FatalRecord), s.status = .halted rec →
    (∀ k : Nat, core.run k s = .next s) ∧
    (∀ h : HostAction, h ≠ .restart → (s.host h).status = .halted rec) ∧
    s.host .restart = State.initial s.cfg

/-- R77: no instruction and no step ends without a next state: the fatal errors are next states, and no ordinary data ends a run.  That
a fatal error is a next state is the model's reading (notes/assumptions/5.md). -/
def Obligations.EveryStepAnswersNext : Prop :=
  (∀ (i : Instr) (s : State), ∃ t, exec i s = .next t) ∧ ∀ s : State, ∃ t, step s = .next t

/-- R121: a step that raises a fatal error leaves everything but the status exactly as it was. -/
def Obligations.FatalStepChangesStatusAlone : Prop :=
  ∀ (s t : State) (rec : FatalRecord), s.runs t → t.status = .halted rec → t = { s with status := .halted rec }

/-- R120, R122: the code numbers of the six causes; which steps raise a fatal error, and the record they leave: code 1 at the fetch limit,
with no opcode; else the cause R120's table gives the decoded instruction, with the fetched opcode; PC is the one at the start of the step.
No other step raises one.  The codes, the record and the key error are the spec's decisions D20 and D12 (notes/assumptions/16.md, 1.md). -/
def Obligations.FatalErrorsFollowTable : Prop :=
  ((∀ pc, (FatalCause.fetchOutOfRange pc).code = 1) ∧ FatalCause.stackOverflow.code = 2 ∧ FatalCause.stackUnderflow.code = 3 ∧
    (∀ addr, (FatalCause.memReadOutOfRange addr).code = 4) ∧ (∀ addr, (FatalCause.memWriteOutOfRange addr).code = 5) ∧
    ∀ key, (FatalCause.keyIndexOutOfRange key).code = 6) ∧
  ∀ s t : State, s.runs t →
    (s.fetchFaults = true → t.status = .halted { cause := .fetchOutOfRange s.pc, pc := s.pc, op := none }) ∧
    (s.fetchFaults = false → ∀ i c, decode s.fetchWord = some i → fatalCondition i s = some c →
      t.status = .halted { cause := c, pc := s.pc, op := some s.fetchWord }) ∧
    (s.fetchFaults = false → (∀ i, decode s.fetchWord = some i → fatalCondition i s = none) → t.isHalted = false)

/-- R75: in every step that raises no fatal error each timer ends one lower than the value it has after the instruction, and not below 0,
whatever the instruction, an unknown opcode and a waiting FX0A included. -/
def Obligations.TimersTickOnceAStep : Prop :=
  ∀ s t : State, s.runs t → t.isHalted = false →
    (∀ x, decode s.fetchWord = some (.ldDtVx x) → t.dt.toNat = (s.reg x).toNat - 1) ∧
    ((∀ x, decode s.fetchWord ≠ some (.ldDtVx x)) → t.dt.toNat = s.dt.toNat - 1) ∧
    (∀ x, decode s.fetchWord = some (.ldStVx x) → t.st.toNat = (s.reg x).toNat - 1) ∧
    ((∀ x, decode s.fetchWord ≠ some (.ldStVx x)) → t.st.toNat = s.st.toNat - 1)

/-- R79: after a step that raised no fatal error the status is WAITING_KEY if the step executed FX0A and found no key set, and RUNNING
otherwise; a waiting step leaves PC where it is.  The waiting status is the spec's decision D14
(notes/assumptions/13.md). -/
def Obligations.StatusAfterAStep : Prop :=
  ∀ s t : State, s.runs t → t.isHalted = false →
    ((∃ x, decode s.fetchWord = some (.ldVxKey x)) ∧ (∀ k, s.key k = false) → t.status = .waitingKey ∧ t.pc = s.pc) ∧
    (¬ ((∃ x, decode s.fetchWord = some (.ldVxKey x)) ∧ ∀ k, s.key k = false) → t.status = .running)

/-- R74: PC after a step that raised no fatal error: 2 higher after an unknown opcode, and where R60's "PC update" column and the rules of
00EE, BNNN and FX0A (R85, R92, R116) say after an instruction.  That BNNN's sum is not reduced is the spec's decision D6
(notes/assumptions/10.md), and that a waiting FX0A leaves PC its decision D14 (notes/assumptions/13.md). -/
def Obligations.PcUpdates : Prop :=
  ∀ s t : State, s.runs t → t.isHalted = false →
    (decode s.fetchWord = none → t.pc = s.pc + 2) ∧ ∀ i, decode s.fetchWord = some i → s.pcAfter t.pc i

/-- R80: the random input is one byte for each step, and matters to CXNN alone: a step of any other word is the same whatever random bytes
are offered; and every step that raises no fatal error, of CXNN or not, uses up its own byte and leaves those of the coming steps.  The two
fields of the random port, and that a step that raises a fatal error or is taken while halted leaves them, are the model's
(notes/assumptions/2.md). -/
def Obligations.RandomInputReachesOnlyCXNN : Prop :=
  (∀ (s t : State) (q : List Byte) (k : Nat), (∀ x nn, decode s.fetchWord ≠ some (.rnd x nn)) → step s = .next t →
    step { s with rndQueue := q, rndSteps := k } =
      .next { t with
        rndQueue := if t.isHalted = true then q else q.tail
        rndSteps := if t.isHalted = true then k else k + 1 }) ∧
  ∀ s t : State, step s = .next t →
    (t.isHalted = false → t.rndQueue = s.rndQueue.tail ∧ t.rndSteps = s.rndSteps + 1) ∧
    (t.isHalted = true → t.rndQueue = s.rndQueue ∧ t.rndSteps = s.rndSteps)

/-- R38, R124: nothing a step does depends on the reports emitted before it; a step only adds to them, one report at most.  The field `reports` is the model's
(notes/assumptions/3.md). -/
def Obligations.ReportsAreOutputAlone : Prop :=
  ∀ (s t : State) (old : List Report), step s = .next t →
    ∃ new, new.length ≤ 1 ∧ t.reports = s.reports ++ new ∧
      (new ≠ [] ↔ s.isHalted = false ∧ s.fetchFaults = false ∧ decode s.fetchWord = none) ∧
      step { s with reports := old } = .next { t with reports := old ++ new }

/-! ### Who writes what (spec/10_state.md) -/

/-- R30: no instruction but 00E0 and DXYN changes a pixel, and the host changes none short of a restart. -/
def Obligations.DisplayWriters : Prop :=
  (∀ s t : State, s.runs t → t.disp ≠ s.disp →
    decode s.fetchWord = some .cls ∨ ∃ x y n, decode s.fetchWord = some (.drw x y n)) ∧
  ∀ (s : State) (h : HostAction), h ≠ .restart → (s.host h).disp = s.disp

/-- R31: the engine never clears draw-pending, every 00E0 and every DXYN that raises no fatal error leaves it raised, nothing else raises
it, and of the host's actions only its own clearing and a restart change it; it is 0 after reset.  That the flag is raised whether or not a pixel
changed is the spec's decision D11 (notes/assumptions/11.md). -/
def Obligations.DrawPendingRaisedAndKept : Prop :=
  (∀ s t : State, s.runs t →
    (s.drawPending = true → t.drawPending = true) ∧
    (t.isHalted = false → s.fetchFaults = false →
      (decode s.fetchWord = some .cls ∨ ∃ x y n, decode s.fetchWord = some (.drw x y n)) → t.drawPending = true) ∧
    (t.drawPending ≠ s.drawPending → decode s.fetchWord = some .cls ∨ ∃ x y n, decode s.fetchWord = some (.drw x y n))) ∧
  (∀ (s : State) (h : HostAction), (s.host h).drawPending ≠ s.drawPending → h = .clearDrawPending ∨ h = .restart) ∧
  State.reset.drawPending = false

/-- R18: I is written only by ANNN, FX1E and FX29.  That FX55 and FX65 leave it is the spec's decision D15 (notes/assumptions/14.md). -/
def Obligations.IndexWriters : Prop :=
  ∀ s t : State, s.runs t → t.i ≠ s.i →
    (∃ nnn, decode s.fetchWord = some (.ldI nnn)) ∨ (∃ x, decode s.fetchWord = some (.addI x)) ∨
      ∃ x, decode s.fetchWord = some (.ldFont x)

/-- R22: SP is changed only by 2NNN and 00EE, and a call-stack entry only by 2NNN.  That 00EE changes no entry is R25, the spec's decision
D24 (notes/assumptions/20.md). -/
def Obligations.CallStackWriters : Prop :=
  ∀ s t : State, s.runs t →
    (t.sp ≠ s.sp → (∃ nnn, decode s.fetchWord = some (.call nnn)) ∨ decode s.fetchWord = some .ret) ∧
    (t.stack ≠ s.stack → ∃ nnn, decode s.fetchWord = some (.call nnn))

/-- R42: no instruction but FX33 and FX55 changes a byte of memory, and those only in the bytes from I upward the table of R42 gives. -/
def Obligations.MemoryWriters : Prop :=
  ∀ (s t : State) (a : Nat), s.runs t → t.readByte a ≠ s.readByte a →
    s.i.toNat ≤ a ∧ a ≤ 4095 ∧
      ((∃ x, decode s.fetchWord = some (.ldBcd x) ∧ a ≤ s.i.toNat + 2) ∨
        ∃ x, decode s.fetchWord = some (.storeRegs x) ∧ a ≤ s.i.toNat + x.val)

/-- R16: a general register is changed only by an instruction that R16's table lists as a writer of it. -/
def Obligations.RegisterWriters : Prop :=
  ∀ (s t : State) (r : Nibble), s.runs t → t.reg r ≠ s.reg r →
    ∃ i, decode s.fetchWord = some i ∧ writesReg i r = true

/-- R32, R39: no step changes the input latch, and none changes the configuration. -/
def Obligations.EngineNeverWritesKeysOrConfig : Prop :=
  ∀ s t : State, step s = .next t → t.keys = s.keys ∧ t.cfg = s.cfg

/-! ### Encoding (spec/30_encoding.md) -/

/-- Decode and encode agree: the decoder gives back every instruction with every operand from its opcode. -/
def Obligations.DecodeEncode : Prop := ∀ i : Instr, decode (encode i) = some i

/-- A word that decodes is the opcode of the instruction it decodes to, so no bit of it is dropped. -/
def Obligations.EncodeDecode : Prop := ∀ (op : Word) (i : Instr), decode op = some i → encode i = op

/-- R60: a word decodes to an instruction exactly when it matches that instruction's row of the opcode map, and no word matches two of
the 34 rows.  The full-word match of family 0 and the zero nibble of 5XY0 and 9XY0 are the spec's decision D16
(notes/assumptions/15.md). -/
def Obligations.DecodeFollowsOpcodeMap : Prop :=
  opcodeTable.length = 34 ∧
  ∀ op : Word,
    (∀ i, decode op = some i → i.row ∈ opcodeTable ∧ i.row.matches op = true) ∧
    (∀ row ∈ opcodeTable, row.matches op = true → ∃ i, decode op = some i ∧ i.row = row) ∧
    opcodeTable.Pairwise fun r₁ r₂ => ¬ (r₁.matches op = true ∧ r₂.matches op = true)

/-- R61: the unknown words of each family.  (Spec decisions D16 and D31; notes/assumptions/15.md.) -/
def Obligations.UnknownWords : Prop :=
  ∀ op : Word, decode op = none ↔
    (op.toNat / 4096 = 0x0 ∧ op.toNat ≠ 0x00E0 ∧ op.toNat ≠ 0x00EE) ∨
    (op.toNat / 4096 = 0x5 ∧ op.toNat % 16 ≠ 0) ∨
    (op.toNat / 4096 = 0x8 ∧ op.toNat % 16 ∈ [0x8, 0x9, 0xA, 0xB, 0xC, 0xD, 0xF]) ∨
    (op.toNat / 4096 = 0x9 ∧ op.toNat % 16 ≠ 0) ∨
    (op.toNat / 4096 = 0xE ∧ op.toNat % 256 ∉ [0x9E, 0xA1]) ∨
    (op.toNat / 4096 = 0xF ∧ op.toNat % 256 ∉ [0x07, 0x0A, 0x15, 0x18, 0x1E, 0x29, 0x33, 0x55, 0x65])

/-- R60: words written out from the opcode map, one of each family, decode to their instructions. -/
def Obligations.SampleWordsDecode : Prop :=
  decode 0x00E0 = some .cls ∧ decode 0x00EE = some .ret ∧ decode 0x1234 = some (.jp 0x234) ∧
  decode 0x2ABC = some (.call 0xABC) ∧ decode 0x37F1 = some (.seImm 7 0xF1) ∧ decode 0x5AB0 = some (.seReg 0xA 0xB) ∧
  decode 0x84F5 = some (.sub 4 0xF) ∧ decode 0x9120 = some (.sneReg 1 2) ∧ decode 0xB0FF = some (.jpV0 0x0FF) ∧
  decode 0xD12F = some (.drw 1 2 0xF) ∧ decode 0xE3A1 = some (.sknp 3) ∧ decode 0xFC65 = some (.loadRegs 0xC)

/-! ### Reset, invariant and host (spec/70_reset_and_hazards.md) -/

/-- R37: every piece of state the specification names at its value after initialization and the load of a ROM: memory is the glyph table
at FONT_BASE, the ROM image from 0x200 upward and 0 elsewhere below 4096 (what an address above reads as is the model's alone,
notes/assumptions/8.md).  State.reset is the machine with no ROM loaded and the default model arguments of R6 and R36, which are the spec's
decisions: FONT_BASE D2, GLYPH_DATA D3, FETCH_LIMIT D5, FLAG_ORDER D8, KEY_OOR_POLICY D12 (notes/assumptions/1.md).  The status RUNNING is
its decision D26. -/
def Obligations.ResetValues : Prop :=
  (defaultConfig.fontBase.val = 0x050 ∧ defaultConfig.fetchLimit.val = 4094 ∧ defaultConfig.keyOorPolicy = .fault ∧
    defaultConfig.flagOrder = .flagThenResult ∧
    defaultConfig.glyphData.toList.map (fun g => g.toList) =
      [[0xF0, 0x90, 0x90, 0x90, 0xF0], [0x20, 0x60, 0x20, 0x20, 0x70], [0xF0, 0x10, 0xF0, 0x80, 0xF0], [0xF0, 0x10, 0xF0, 0x10, 0xF0]] ++
      [[0x90, 0x90, 0xF0, 0x10, 0x10], [0xF0, 0x80, 0xF0, 0x10, 0xF0], [0xF0, 0x80, 0xF0, 0x90, 0xF0], [0xF0, 0x10, 0x20, 0x40, 0x40]] ++
      [[0xF0, 0x90, 0xF0, 0x90, 0xF0], [0xF0, 0x90, 0xF0, 0x10, 0xF0], [0xF0, 0x90, 0xF0, 0x90, 0x90], [0xE0, 0x90, 0xE0, 0x90, 0xE0]] ++
      [[0xF0, 0x80, 0x80, 0x80, 0xF0], [0xE0, 0x90, 0x90, 0x90, 0xE0], [0xF0, 0x80, 0xF0, 0x80, 0xF0], [0xF0, 0x80, 0xF0, 0x80, 0x80]]) ∧
  State.reset.cfg = defaultConfig ∧ State.reset.loadRom [] = .ok State.reset ∧
  ∀ rom : List Byte, rom.length ≤ 3584 → ∃ s, State.reset.loadRom rom = .ok s ∧ s.cfg = defaultConfig ∧
    (∀ r, s.reg r = 0) ∧ s.i = 0 ∧ s.pc = 0x200 ∧ (∀ k : Fin 16, s.stack[k.val] = 0) ∧ s.sp = 0 ∧ s.dt = 0 ∧ s.st = 0 ∧
    (∀ px py, s.disp.pixel px py = false) ∧ s.drawPending = false ∧ (∀ k, s.key k = false) ∧ s.status = .running ∧
    (∀ (d : Fin 16) (r : Fin 5), s.readByte (s.cfg.fontBase.val + 5 * d.val + r.val) = s.cfg.glyphData[d.val][r.val]) ∧
    (∀ (k : Nat) (h : k < rom.length), s.readByte (0x200 + k) = rom[k]) ∧
    ∀ a < 4096, ¬ (s.cfg.fontBase.val ≤ a ∧ a < s.cfg.fontBase.val + 80) → ¬ (0x200 ≤ a ∧ a < 0x200 + rom.length) → s.readByte a = 0

/-- The state after reset is a legal one. -/
def Obligations.ResetMeetsInvariant : Prop := State.reset.Inv

/-- Every step keeps the invariant: memory stays canonical, PC and every call-stack entry stay at most 0x10FE (R21), and a HALTED status
tells the truth (R120, R121).  (notes/assumptions/8.md: the canonical form of memory is the model's.) -/
def Obligations.StepKeepsInvariant : Prop := ∀ s t : State, s.Inv → step s = .next t → t.Inv

/-- R131, R132, R133, R135: what the host does between steps.  Setting or clearing a key sets that key and nothing else; clearing
draw-pending lowers the flag and changes nothing else; taking a frame gives the frame and the flag and clears the flag; supplying a random
byte adds it behind the bytes supplied before and changes nothing else (the random port is the model's, notes/assumptions/2.md); the tone
is on exactly for ST != 0 (the spec's decision D27, notes/assumptions/22.md).  Everything the host may do between steps keeps the
invariant, and so does loading a ROM before the first step. -/
def Obligations.HostKeepsInvariant : Prop :=
  (∀ (s : State) (k : Nibble) (b : Bool),
    (s.host (.setKey k b)).key k = b ∧ (∀ j, j ≠ k → (s.host (.setKey k b)).key j = s.key j) ∧
      s.host (.setKey k b) = { s with keys := (s.host (.setKey k b)).keys }) ∧
  (∀ s : State, s.host .clearDrawPending = { s with drawPending := false } ∧
    s.takeFrame = (s.disp, s.drawPending, s.host .clearDrawPending) ∧ (s.toneOn = true ↔ s.st ≠ 0)) ∧
  (∀ (s : State) (b : Byte), s.host (.provideRnd b) = { s with rndQueue := s.rndQueue ++ [b] }) ∧
  (∀ (s : State) (h : HostAction), s.Inv → (s.host h).Inv) ∧
  ∀ (s t : State) (rom : List Byte), s.Inv → s.loadRom rom = .ok t → t.Inv

/-- R141, R142: an image of at most 3584 bytes is placed at 0x200 upward and nothing else changes; a longer one is rejected. -/
def Obligations.RomLoad : Prop :=
  ∀ (rom : List Byte),
    (rom.length ≤ 3584 →
      ∃ t, State.reset.loadRom rom = .ok t ∧ (∀ (k : Nat) (h : k < rom.length), t.readByte (0x200 + k) = rom[k]) ∧
        (∀ a, (a < 0x200 ∨ 0x200 + rom.length ≤ a) → t.readByte a = State.reset.readByte a) ∧
        t = { State.reset with mem := t.mem }) ∧
    (3584 < rom.length → State.reset.loadRom rom = .error .romTooLarge)

/-- R143: a restart returns every piece of state, a HALTED status and memory included, to its initialization value.  What a restart resets is the
spec's decision D22; that the configuration stays is the model's (notes/assumptions/19.md). -/
def Obligations.RestartInitializes : Prop :=
  ∀ s : State, s.host .restart = State.initial s.cfg ∧ (s.cfg = defaultConfig → s.host .restart = State.reset)
end

