-- ==== Sys2Proof/Laws/Decode.lean ====
section
/-!
SUPPORT. The fields of an opcode, of an encoded one and under the masks of the opcode map.
-/

namespace Sys2Proof

/-! ### Fields in plain arithmetic -/

theorem opH_eq (op : Word) : opH op = op.toNat / 4096 := by
  have := op.isLt
  simp only [opH, bitField]
  omega

theorem opX_val (op : Word) : (opX op).val = op.toNat / 256 % 16 := by
  simp only [opX, bitField, Fin.ofNat]
  omega

theorem opY_val (op : Word) : (opY op).val = op.toNat / 16 % 16 := by
  simp only [opY, bitField, Fin.ofNat]
  omega

theorem opN_val (op : Word) : (opN op).val = op.toNat % 16 := by
  simp only [opN, bitField, Fin.ofNat]
  omega

theorem opNN_toNat (op : Word) : (opNN op).toNat = op.toNat % 256 := by
  simp only [opNN, bitField, BitVec.toNat_ofNat]
  omega

theorem opNNN_toNat (op : Word) : (opNNN op).toNat = op.toNat % 4096 := by
  simp only [opNNN, bitField, BitVec.toNat_ofNat]
  omega

theorem lowByte_eq (op : Word) : bitField op 7 0 = op.toNat % 256 := by
  simp only [bitField]
  omega

/-! ### Encoded words -/

theorem encodeNNN_toNat {h : Nat} (hh : h < 16) (nnn : BitVec 12) : (encodeNNN h nnn).toNat = h * 4096 + nnn.toNat := by
  have := nnn.isLt
  simp only [encodeNNN, BitVec.toNat_ofNat]
  omega

theorem encodeXNN_toNat {h : Nat} (hh : h < 16) (x : Nibble) (nn : Byte) :
    (encodeXNN h x nn).toNat = h * 4096 + x.val * 256 + nn.toNat := by
  have := nn.isLt
  have := x.isLt
  simp only [encodeXNN, BitVec.toNat_ofNat]
  omega

theorem encodeXYN_toNat {h : Nat} (hh : h < 16) (x y n : Nibble) :
    (encodeXYN h x y n).toNat = h * 4096 + x.val * 256 + y.val * 16 + n.val := by
  have := x.isLt
  have := y.isLt
  have := n.isLt
  simp only [encodeXYN, BitVec.toNat_ofNat]
  omega

/-! ### The two bytes of an opcode in memory -/

/-- The bytes an opcode is stored as give the opcode back. -/
theorem opcodeOfBytes_hi_lo (op : Word) : opcodeOfBytes (opcodeHi op) (opcodeLo op) = op := by
  have := op.isLt
  apply BitVec.eq_of_toNat_eq
  simp only [opcodeOfBytes, opcodeHi, opcodeLo, bitField, BitVec.toNat_ofNat]
  omega

/-- The decoder on a table word of 16 bits is the decoder on the opcode. -/
theorem decodeTableWord_16 (w : Nat) : decodeTableWord 16 w = decode (BitVec.ofNat 16 w) := by
  have h : BitVec.ofNat 16 (w % 2 ^ 16) = BitVec.ofNat 16 w := by
    apply BitVec.eq_of_toNat_eq
    simp
  simp only [decodeTableWord, h, decodeBytes, opcodeOfBytes_hi_lo]
  cases decode (BitVec.ofNat 16 w) <;> rfl

/-! ### The masks of the opcode map -/

theorem and_F000_toNat (op : Word) : (op &&& (0xF000 : Word)).toNat = op.toNat / 4096 * 4096 := by
  have h : op &&& (0xF000 : Word) = (op >>> 12) <<< 12 := by
    ext k hk
    interval_cases k <;> simp
  have := op.isLt
  rw [h]
  simp only [BitVec.toNat_shiftLeft, BitVec.toNat_ushiftRight, Nat.shiftLeft_eq, Nat.shiftRight_eq_div_pow]
  omega

theorem and_low_toNat (op : Word) (k : Nat) (hk : k ≤ 16) : (op &&& BitVec.ofNat 16 (2 ^ k - 1)).toNat = op.toNat % 2 ^ k := by
  have h2 : 2 ^ k ≤ 2 ^ 16 := Nat.pow_le_pow_right (by omega) hk
  have h1 : 0 < 2 ^ k := Nat.two_pow_pos k
  rw [BitVec.toNat_and, BitVec.toNat_ofNat, Nat.mod_eq_of_lt (by omega), Nat.and_two_pow_sub_one_eq_mod]

theorem and_split_toNat (op m₁ m₂ : Word) (h : m₁ &&& m₂ = 0) :
    (op &&& (m₁ ||| m₂)).toNat = ((op &&& m₁).toNat + (op &&& m₂).toNat) % 65536 := by
  have hd : (op &&& m₁) &&& (op &&& m₂) = 0 := by
    rw [show (op &&& m₁) &&& (op &&& m₂) = (op &&& op) &&& (m₁ &&& m₂) by ac_rfl, h]
    simp
  rw [show op &&& (m₁ ||| m₂) = (op &&& m₁) ||| (op &&& m₂) by
    ext k hk
    simp [Bool.and_or_distrib_left], ← BitVec.add_eq_or_of_and_eq_zero _ _ hd, BitVec.toNat_add]

theorem and_F00F_toNat (op : Word) : (op &&& (0xF00F : Word)).toNat = op.toNat / 4096 * 4096 + op.toNat % 16 := by
  have := op.isLt
  have h := and_split_toNat op 0xF000 0x000F (by decide)
  rw [and_F000_toNat, show (0x000F : Word) = BitVec.ofNat 16 (2 ^ 4 - 1) from rfl, and_low_toNat op 4 (by omega)] at h
  rw [show (0xF00F : Word) = 0xF000 ||| BitVec.ofNat 16 (2 ^ 4 - 1) from rfl, h]
  omega

theorem and_F0FF_toNat (op : Word) : (op &&& (0xF0FF : Word)).toNat = op.toNat / 4096 * 4096 + op.toNat % 256 := by
  have := op.isLt
  have h := and_split_toNat op 0xF000 0x00FF (by decide)
  rw [and_F000_toNat, show (0x00FF : Word) = BitVec.ofNat 16 (2 ^ 8 - 1) from rfl, and_low_toNat op 8 (by omega)] at h
  rw [show (0xF0FF : Word) = 0xF000 ||| BitVec.ofNat 16 (2 ^ 8 - 1) from rfl, h]
  omega

theorem and_FFFF_eq (op : Word) : op &&& (0xFFFF : Word) = op := by
  ext k hk
  interval_cases k <;> simp

end Sys2Proof
end

