-- ==== Sys2Proof/Laws/Memory.lean ====
section
/-!
SUPPORT. Memory laws: a read after a write, every other address unchanged, and the canonical form kept by every write.
-/

namespace Sys2Proof.Machine

variable {cfg : Config} {m : Memory} {a a' lo : Nat} {b : Byte}

@[simp] theorem Memory.read_nil : Memory.read cfg [] a = initByte cfg a := rfl

theorem Memory.wfFrom_cons {rest : Memory} :
    Memory.wfFrom cfg lo ((a, b) :: rest) = true ↔
      lo ≤ a ∧ a < memSize ∧ b ≠ initByte cfg a ∧ Memory.wfFrom cfg (a + 1) rest = true := by
  simp [Memory.wfFrom, and_assoc]

/-- A lower bound may be lowered. -/
theorem Memory.wfFrom_mono {lo' : Nat} (h : Memory.wfFrom cfg lo m = true) (hle : lo' ≤ lo) :
    Memory.wfFrom cfg lo' m = true := by
  cases m with
  | nil => rfl
  | cons c rest =>
    obtain ⟨h1, h2⟩ := Memory.wfFrom_cons.1 h
    exact Memory.wfFrom_cons.2 ⟨by omega, h2⟩

/-- An address below every listed one is unlisted. -/
theorem Memory.read_below (h : Memory.wfFrom cfg lo m = true) (ha : a < lo) : m.read cfg a = initByte cfg a := by
  induction m generalizing lo with
  | nil => rfl
  | cons c rest ih =>
    obtain ⟨h1, -, -, h4⟩ := Memory.wfFrom_cons.1 h
    have hne : c.1 ≠ a := by omega
    simpa [Memory.read, hne] using ih h4 (by omega)

theorem Memory.read_consCell_same {rest : Memory} (h : rest.read cfg a = initByte cfg a) :
    (Memory.consCell cfg a b rest).read cfg a = b := by
  unfold Memory.consCell
  split
  · simp_all
  · simp [Memory.read]

theorem Memory.read_consCell_other {rest : Memory} (h : a' ≠ a) :
    (Memory.consCell cfg a b rest).read cfg a' = rest.read cfg a' := by
  unfold Memory.consCell
  split
  · rfl
  · simp [Memory.read, h.symm]

/-- A write leaves every other address alone, in canonical form or not. -/
theorem Memory.read_write_other (h : a' ≠ a) : (m.write cfg a b).read cfg a' = m.read cfg a' := by
  induction m with
  | nil => exact Memory.read_consCell_other h
  | cons c rest ih =>
    obtain ⟨c1, c2⟩ := c
    simp only [Memory.write]
    split
    · simp [Memory.read, ih]
    · split
      · rename_i hc
        have hne : c1 ≠ a' := by omega
        simp [Memory.read_consCell_other h, Memory.read, hne]
      · exact Memory.read_consCell_other h

theorem Memory.read_write_same_from (hw : Memory.wfFrom cfg lo m = true) : (m.write cfg a b).read cfg a = b := by
  induction m generalizing lo with
  | nil => exact Memory.read_consCell_same rfl
  | cons c rest ih =>
    obtain ⟨c1, c2⟩ := c
    obtain ⟨h1, -, -, h4⟩ := Memory.wfFrom_cons.1 hw
    simp only [Memory.write]
    split
    · have hne : c1 ≠ a := by omega
      simp [Memory.read, hne, ih h4]
    · split
      · exact Memory.read_consCell_same (Memory.read_below h4 (by omega))
      · refine Memory.read_consCell_same ?_
        have hne : c1 ≠ a := by omega
        simpa [Memory.read, hne] using Memory.read_below h4 (a := a) (by omega)

/-- A read after a write to the same address gives the byte written. -/
theorem Memory.read_write_same (hw : m.wf cfg = true) : (m.write cfg a b).read cfg a = b :=
  Memory.read_write_same_from hw

theorem Memory.wfFrom_consCell {rest : Memory} (hlo : lo ≤ a) (ha : a < memSize)
    (h : Memory.wfFrom cfg (a + 1) rest = true) : Memory.wfFrom cfg lo (Memory.consCell cfg a b rest) = true := by
  unfold Memory.consCell
  split
  · exact Memory.wfFrom_mono h (by omega)
  · exact Memory.wfFrom_cons.2 ⟨hlo, ha, ‹_›, h⟩

theorem Memory.wfFrom_write (hw : Memory.wfFrom cfg lo m = true) (hlo : lo ≤ a) (ha : a < memSize) :
    Memory.wfFrom cfg lo (m.write cfg a b) = true := by
  induction m generalizing lo with
  | nil => exact Memory.wfFrom_consCell hlo ha rfl
  | cons c rest ih =>
    obtain ⟨c1, c2⟩ := c
    obtain ⟨h1, h2, h3, h4⟩ := Memory.wfFrom_cons.1 hw
    simp only [Memory.write]
    split
    · exact Memory.wfFrom_cons.2 ⟨h1, h2, h3, ih h4 (by omega)⟩
    · split
      · exact Memory.wfFrom_consCell hlo ha (Memory.wfFrom_mono h4 (by omega))
      · exact Memory.wfFrom_consCell hlo ha (Memory.wfFrom_cons.2 ⟨by omega, h2, h3, h4⟩)

/-- A write to an existing address keeps the canonical form. -/
theorem Memory.wf_write (hw : m.wf cfg = true) (ha : a < memSize) : (m.write cfg a b).wf cfg = true :=
  Memory.wfFrom_write hw (Nat.zero_le a) ha

@[simp] theorem Memory.wf_nil : Memory.wf cfg [] = true := rfl

/-- Two canonical memories that read alike at every address are equal. -/
theorem Memory.wfFrom_ext {m₁ m₂ : Memory} (h₁ : Memory.wfFrom cfg lo m₁ = true) (h₂ : Memory.wfFrom cfg lo m₂ = true)
    (h : ∀ a, m₁.read cfg a = m₂.read cfg a) : m₁ = m₂ := by
  induction m₁ generalizing m₂ lo with
  | nil =>
    cases m₂ with
    | nil => rfl
    | cons c rest =>
      obtain ⟨-, -, h3, -⟩ := Memory.wfFrom_cons.1 h₂
      exact absurd (by simpa [Memory.read] using (h c.1).symm) h3
  | cons c₁ r₁ ih =>
    obtain ⟨a₁, b₁⟩ := c₁
    obtain ⟨l1, -, n1, w1⟩ := Memory.wfFrom_cons.1 h₁
    cases m₂ with
    | nil => exact absurd (by simpa [Memory.read] using h a₁) n1
    | cons c₂ r₂ =>
      obtain ⟨a₂, b₂⟩ := c₂
      obtain ⟨l2, -, n2, w2⟩ := Memory.wfFrom_cons.1 h₂
      have hlt : ¬ a₁ < a₂ := fun hlt => by
        have e := h a₁
        have hne : a₂ ≠ a₁ := by omega
        rw [show Memory.read cfg ((a₁, b₁) :: r₁) a₁ = b₁ by simp [Memory.read],
          show Memory.read cfg ((a₂, b₂) :: r₂) a₁ = initByte cfg a₁ by
            simpa [Memory.read, hne] using Memory.read_below w2 (a := a₁) (by omega)] at e
        exact n1 e
      have hgt : ¬ a₂ < a₁ := fun hgt => by
        have e := h a₂
        have hne : a₁ ≠ a₂ := by omega
        rw [show Memory.read cfg ((a₂, b₂) :: r₂) a₂ = b₂ by simp [Memory.read],
          show Memory.read cfg ((a₁, b₁) :: r₁) a₂ = initByte cfg a₂ by
            simpa [Memory.read, hne] using Memory.read_below w1 (a := a₂) (by omega)] at e
        exact n2 e.symm
      obtain rfl : a₁ = a₂ := by omega
      obtain rfl : b₁ = b₂ := by simpa [Memory.read] using h a₁
      congr 1
      refine ih w1 w2 fun a => ?_
      by_cases ha : a₁ = a
      · subst ha
        rw [Memory.read_below w1 (by omega), Memory.read_below w2 (by omega)]
      · simpa [Memory.read, ha] using h a

/-- Equal contents are equal data. -/
theorem Memory.wf_ext {m₁ m₂ : Memory} (h₁ : m₁.wf cfg = true) (h₂ : m₂.wf cfg = true)
    (h : ∀ a, m₁.read cfg a = m₂.read cfg a) : m₁ = m₂ := Memory.wfFrom_ext h₁ h₂ h

end Sys2Proof.Machine
end

