-- ==== Sys2Proof/Laws/State.lean ====
section
/-!
SUPPORT. One lemma for each field of State and each update of Sys2Proof/Machine (Ops.lean, Engine.lean, HostPort.lean),
true by rfl, so that no proof unfolds a record update; then the reads derived from the fields.
-/

namespace Sys2Proof.Machine

variable (s : State)

/-! ### setReg -/

@[simp] theorem State.setReg_cfg (x : Nibble) (b : Byte) : (s.setReg x b).cfg = s.cfg := rfl
@[simp] theorem State.setReg_mem (x : Nibble) (b : Byte) : (s.setReg x b).mem = s.mem := rfl
@[simp] theorem State.setReg_v (x : Nibble) (b : Byte) : (s.setReg x b).v = s.v.set x.val b := rfl
@[simp] theorem State.setReg_i (x : Nibble) (b : Byte) : (s.setReg x b).i = s.i := rfl
@[simp] theorem State.setReg_pc (x : Nibble) (b : Byte) : (s.setReg x b).pc = s.pc := rfl
@[simp] theorem State.setReg_stack (x : Nibble) (b : Byte) : (s.setReg x b).stack = s.stack := rfl
@[simp] theorem State.setReg_sp (x : Nibble) (b : Byte) : (s.setReg x b).sp = s.sp := rfl
@[simp] theorem State.setReg_dt (x : Nibble) (b : Byte) : (s.setReg x b).dt = s.dt := rfl
@[simp] theorem State.setReg_st (x : Nibble) (b : Byte) : (s.setReg x b).st = s.st := rfl
@[simp] theorem State.setReg_disp (x : Nibble) (b : Byte) : (s.setReg x b).disp = s.disp := rfl
@[simp] theorem State.setReg_drawPending (x : Nibble) (b : Byte) : (s.setReg x b).drawPending = s.drawPending := rfl
@[simp] theorem State.setReg_keys (x : Nibble) (b : Byte) : (s.setReg x b).keys = s.keys := rfl
@[simp] theorem State.setReg_status (x : Nibble) (b : Byte) : (s.setReg x b).status = s.status := rfl
@[simp] theorem State.setReg_rndQueue (x : Nibble) (b : Byte) : (s.setReg x b).rndQueue = s.rndQueue := rfl
@[simp] theorem State.setReg_rndSteps (x : Nibble) (b : Byte) : (s.setReg x b).rndSteps = s.rndSteps := rfl
@[simp] theorem State.setReg_reports (x : Nibble) (b : Byte) : (s.setReg x b).reports = s.reports := rfl

@[simp] theorem State.setReg_readByte (x : Nibble) (b : Byte) (m : Nat) : (s.setReg x b).readByte m = s.readByte m := rfl
@[simp] theorem State.setReg_key (x : Nibble) (b : Byte) (j : Nibble) : (s.setReg x b).key j = s.key j := rfl
@[simp] theorem State.setReg_isHalted (x : Nibble) (b : Byte) : (s.setReg x b).isHalted = s.isHalted := rfl

/-! ### setI -/

@[simp] theorem State.setI_cfg (a : Word) : (s.setI a).cfg = s.cfg := rfl
@[simp] theorem State.setI_mem (a : Word) : (s.setI a).mem = s.mem := rfl
@[simp] theorem State.setI_v (a : Word) : (s.setI a).v = s.v := rfl
@[simp] theorem State.setI_i (a : Word) : (s.setI a).i = a := rfl
@[simp] theorem State.setI_pc (a : Word) : (s.setI a).pc = s.pc := rfl
@[simp] theorem State.setI_stack (a : Word) : (s.setI a).stack = s.stack := rfl
@[simp] theorem State.setI_sp (a : Word) : (s.setI a).sp = s.sp := rfl
@[simp] theorem State.setI_dt (a : Word) : (s.setI a).dt = s.dt := rfl
@[simp] theorem State.setI_st (a : Word) : (s.setI a).st = s.st := rfl
@[simp] theorem State.setI_disp (a : Word) : (s.setI a).disp = s.disp := rfl
@[simp] theorem State.setI_drawPending (a : Word) : (s.setI a).drawPending = s.drawPending := rfl
@[simp] theorem State.setI_keys (a : Word) : (s.setI a).keys = s.keys := rfl
@[simp] theorem State.setI_status (a : Word) : (s.setI a).status = s.status := rfl
@[simp] theorem State.setI_rndQueue (a : Word) : (s.setI a).rndQueue = s.rndQueue := rfl
@[simp] theorem State.setI_rndSteps (a : Word) : (s.setI a).rndSteps = s.rndSteps := rfl
@[simp] theorem State.setI_reports (a : Word) : (s.setI a).reports = s.reports := rfl

@[simp] theorem State.setI_reg (a : Word) (r : Nibble) : (s.setI a).reg r = s.reg r := rfl
@[simp] theorem State.setI_readByte (a : Word) (m : Nat) : (s.setI a).readByte m = s.readByte m := rfl
@[simp] theorem State.setI_key (a : Word) (j : Nibble) : (s.setI a).key j = s.key j := rfl
@[simp] theorem State.setI_isHalted (a : Word) : (s.setI a).isHalted = s.isHalted := rfl

/-! ### setDt -/

@[simp] theorem State.setDt_cfg (b : Byte) : (s.setDt b).cfg = s.cfg := rfl
@[simp] theorem State.setDt_mem (b : Byte) : (s.setDt b).mem = s.mem := rfl
@[simp] theorem State.setDt_v (b : Byte) : (s.setDt b).v = s.v := rfl
@[simp] theorem State.setDt_i (b : Byte) : (s.setDt b).i = s.i := rfl
@[simp] theorem State.setDt_pc (b : Byte) : (s.setDt b).pc = s.pc := rfl
@[simp] theorem State.setDt_stack (b : Byte) : (s.setDt b).stack = s.stack := rfl
@[simp] theorem State.setDt_sp (b : Byte) : (s.setDt b).sp = s.sp := rfl
@[simp] theorem State.setDt_dt (b : Byte) : (s.setDt b).dt = b := rfl
@[simp] theorem State.setDt_st (b : Byte) : (s.setDt b).st = s.st := rfl
@[simp] theorem State.setDt_disp (b : Byte) : (s.setDt b).disp = s.disp := rfl
@[simp] theorem State.setDt_drawPending (b : Byte) : (s.setDt b).drawPending = s.drawPending := rfl
@[simp] theorem State.setDt_keys (b : Byte) : (s.setDt b).keys = s.keys := rfl
@[simp] theorem State.setDt_status (b : Byte) : (s.setDt b).status = s.status := rfl
@[simp] theorem State.setDt_rndQueue (b : Byte) : (s.setDt b).rndQueue = s.rndQueue := rfl
@[simp] theorem State.setDt_rndSteps (b : Byte) : (s.setDt b).rndSteps = s.rndSteps := rfl
@[simp] theorem State.setDt_reports (b : Byte) : (s.setDt b).reports = s.reports := rfl

@[simp] theorem State.setDt_reg (b : Byte) (r : Nibble) : (s.setDt b).reg r = s.reg r := rfl
@[simp] theorem State.setDt_readByte (b : Byte) (m : Nat) : (s.setDt b).readByte m = s.readByte m := rfl
@[simp] theorem State.setDt_key (b : Byte) (j : Nibble) : (s.setDt b).key j = s.key j := rfl
@[simp] theorem State.setDt_isHalted (b : Byte) : (s.setDt b).isHalted = s.isHalted := rfl

/-! ### setSt -/

@[simp] theorem State.setSt_cfg (b : Byte) : (s.setSt b).cfg = s.cfg := rfl
@[simp] theorem State.setSt_mem (b : Byte) : (s.setSt b).mem = s.mem := rfl
@[simp] theorem State.setSt_v (b : Byte) : (s.setSt b).v = s.v := rfl
@[simp] theorem State.setSt_i (b : Byte) : (s.setSt b).i = s.i := rfl
@[simp] theorem State.setSt_pc (b : Byte) : (s.setSt b).pc = s.pc := rfl
@[simp] theorem State.setSt_stack (b : Byte) : (s.setSt b).stack = s.stack := rfl
@[simp] theorem State.setSt_sp (b : Byte) : (s.setSt b).sp = s.sp := rfl
@[simp] theorem State.setSt_dt (b : Byte) : (s.setSt b).dt = s.dt := rfl
@[simp] theorem State.setSt_st (b : Byte) : (s.setSt b).st = b := rfl
@[simp] theorem State.setSt_disp (b : Byte) : (s.setSt b).disp = s.disp := rfl
@[simp] theorem State.setSt_drawPending (b : Byte) : (s.setSt b).drawPending = s.drawPending := rfl
@[simp] theorem State.setSt_keys (b : Byte) : (s.setSt b).keys = s.keys := rfl
@[simp] theorem State.setSt_status (b : Byte) : (s.setSt b).status = s.status := rfl
@[simp] theorem State.setSt_rndQueue (b : Byte) : (s.setSt b).rndQueue = s.rndQueue := rfl
@[simp] theorem State.setSt_rndSteps (b : Byte) : (s.setSt b).rndSteps = s.rndSteps := rfl
@[simp] theorem State.setSt_reports (b : Byte) : (s.setSt b).reports = s.reports := rfl

@[simp] theorem State.setSt_reg (b : Byte) (r : Nibble) : (s.setSt b).reg r = s.reg r := rfl
@[simp] theorem State.setSt_readByte (b : Byte) (m : Nat) : (s.setSt b).readByte m = s.readByte m := rfl
@[simp] theorem State.setSt_key (b : Byte) (j : Nibble) : (s.setSt b).key j = s.key j := rfl
@[simp] theorem State.setSt_isHalted (b : Byte) : (s.setSt b).isHalted = s.isHalted := rfl

/-! ### jump -/

@[simp] theorem State.jump_cfg (a : Word) : (s.jump a).cfg = s.cfg := rfl
@[simp] theorem State.jump_mem (a : Word) : (s.jump a).mem = s.mem := rfl
@[simp] theorem State.jump_v (a : Word) : (s.jump a).v = s.v := rfl
@[simp] theorem State.jump_i (a : Word) : (s.jump a).i = s.i := rfl
@[simp] theorem State.jump_pc (a : Word) : (s.jump a).pc = a := rfl
@[simp] theorem State.jump_stack (a : Word) : (s.jump a).stack = s.stack := rfl
@[simp] theorem State.jump_sp (a : Word) : (s.jump a).sp = s.sp := rfl
@[simp] theorem State.jump_dt (a : Word) : (s.jump a).dt = s.dt := rfl
@[simp] theorem State.jump_st (a : Word) : (s.jump a).st = s.st := rfl
@[simp] theorem State.jump_disp (a : Word) : (s.jump a).disp = s.disp := rfl
@[simp] theorem State.jump_drawPending (a : Word) : (s.jump a).drawPending = s.drawPending := rfl
@[simp] theorem State.jump_keys (a : Word) : (s.jump a).keys = s.keys := rfl
@[simp] theorem State.jump_status (a : Word) : (s.jump a).status = s.status := rfl
@[simp] theorem State.jump_rndQueue (a : Word) : (s.jump a).rndQueue = s.rndQueue := rfl
@[simp] theorem State.jump_rndSteps (a : Word) : (s.jump a).rndSteps = s.rndSteps := rfl
@[simp] theorem State.jump_reports (a : Word) : (s.jump a).reports = s.reports := rfl

@[simp] theorem State.jump_reg (a : Word) (r : Nibble) : (s.jump a).reg r = s.reg r := rfl
@[simp] theorem State.jump_readByte (a : Word) (m : Nat) : (s.jump a).readByte m = s.readByte m := rfl
@[simp] theorem State.jump_key (a : Word) (j : Nibble) : (s.jump a).key j = s.key j := rfl
@[simp] theorem State.jump_isHalted (a : Word) : (s.jump a).isHalted = s.isHalted := rfl

/-! ### advance -/

@[simp] theorem State.advance_cfg : (s.advance).cfg = s.cfg := rfl
@[simp] theorem State.advance_mem : (s.advance).mem = s.mem := rfl
@[simp] theorem State.advance_v : (s.advance).v = s.v := rfl
@[simp] theorem State.advance_i : (s.advance).i = s.i := rfl
@[simp] theorem State.advance_pc : (s.advance).pc = s.pc + 2 := rfl
@[simp] theorem State.advance_stack : (s.advance).stack = s.stack := rfl
@[simp] theorem State.advance_sp : (s.advance).sp = s.sp := rfl
@[simp] theorem State.advance_dt : (s.advance).dt = s.dt := rfl
@[simp] theorem State.advance_st : (s.advance).st = s.st := rfl
@[simp] theorem State.advance_disp : (s.advance).disp = s.disp := rfl
@[simp] theorem State.advance_drawPending : (s.advance).drawPending = s.drawPending := rfl
@[simp] theorem State.advance_keys : (s.advance).keys = s.keys := rfl
@[simp] theorem State.advance_status : (s.advance).status = s.status := rfl
@[simp] theorem State.advance_rndQueue : (s.advance).rndQueue = s.rndQueue := rfl
@[simp] theorem State.advance_rndSteps : (s.advance).rndSteps = s.rndSteps := rfl
@[simp] theorem State.advance_reports : (s.advance).reports = s.reports := rfl

@[simp] theorem State.advance_reg (r : Nibble) : (s.advance).reg r = s.reg r := rfl
@[simp] theorem State.advance_readByte (m : Nat) : (s.advance).readByte m = s.readByte m := rfl
@[simp] theorem State.advance_key (j : Nibble) : (s.advance).key j = s.key j := rfl
@[simp] theorem State.advance_isHalted : (s.advance).isHalted = s.isHalted := rfl

/-! ### skipIf -/

@[simp] theorem State.skipIf_cfg (c : Bool) : (s.skipIf c).cfg = s.cfg := rfl
@[simp] theorem State.skipIf_mem (c : Bool) : (s.skipIf c).mem = s.mem := rfl
@[simp] theorem State.skipIf_v (c : Bool) : (s.skipIf c).v = s.v := rfl
@[simp] theorem State.skipIf_i (c : Bool) : (s.skipIf c).i = s.i := rfl
@[simp] theorem State.skipIf_pc (c : Bool) : (s.skipIf c).pc = if c then s.pc + 4 else s.pc + 2 := rfl
@[simp] theorem State.skipIf_stack (c : Bool) : (s.skipIf c).stack = s.stack := rfl
@[simp] theorem State.skipIf_sp (c : Bool) : (s.skipIf c).sp = s.sp := rfl
@[simp] theorem State.skipIf_dt (c : Bool) : (s.skipIf c).dt = s.dt := rfl
@[simp] theorem State.skipIf_st (c : Bool) : (s.skipIf c).st = s.st := rfl
@[simp] theorem State.skipIf_disp (c : Bool) : (s.skipIf c).disp = s.disp := rfl
@[simp] theorem State.skipIf_drawPending (c : Bool) : (s.skipIf c).drawPending = s.drawPending := rfl
@[simp] theorem State.skipIf_keys (c : Bool) : (s.skipIf c).keys = s.keys := rfl
@[simp] theorem State.skipIf_status (c : Bool) : (s.skipIf c).status = s.status := rfl
@[simp] theorem State.skipIf_rndQueue (c : Bool) : (s.skipIf c).rndQueue = s.rndQueue := rfl
@[simp] theorem State.skipIf_rndSteps (c : Bool) : (s.skipIf c).rndSteps = s.rndSteps := rfl
@[simp] theorem State.skipIf_reports (c : Bool) : (s.skipIf c).reports = s.reports := rfl

@[simp] theorem State.skipIf_reg (c : Bool) (r : Nibble) : (s.skipIf c).reg r = s.reg r := rfl
@[simp] theorem State.skipIf_readByte (c : Bool) (m : Nat) : (s.skipIf c).readByte m = s.readByte m := rfl
@[simp] theorem State.skipIf_key (c : Bool) (j : Nibble) : (s.skipIf c).key j = s.key j := rfl
@[simp] theorem State.skipIf_isHalted (c : Bool) : (s.skipIf c).isHalted = s.isHalted := rfl

/-! ### writeByte -/

@[simp] theorem State.writeByte_cfg (a : Nat) (b : Byte) : (s.writeByte a b).cfg = s.cfg := rfl
@[simp] theorem State.writeByte_mem (a : Nat) (b : Byte) : (s.writeByte a b).mem = s.mem.write s.cfg a b := rfl
@[simp] theorem State.writeByte_v (a : Nat) (b : Byte) : (s.writeByte a b).v = s.v := rfl
@[simp] theorem State.writeByte_i (a : Nat) (b : Byte) : (s.writeByte a b).i = s.i := rfl
@[simp] theorem State.writeByte_pc (a : Nat) (b : Byte) : (s.writeByte a b).pc = s.pc := rfl
@[simp] theorem State.writeByte_stack (a : Nat) (b : Byte) : (s.writeByte a b).stack = s.stack := rfl
@[simp] theorem State.writeByte_sp (a : Nat) (b : Byte) : (s.writeByte a b).sp = s.sp := rfl
@[simp] theorem State.writeByte_dt (a : Nat) (b : Byte) : (s.writeByte a b).dt = s.dt := rfl
@[simp] theorem State.writeByte_st (a : Nat) (b : Byte) : (s.writeByte a b).st = s.st := rfl
@[simp] theorem State.writeByte_disp (a : Nat) (b : Byte) : (s.writeByte a b).disp = s.disp := rfl
@[simp] theorem State.writeByte_drawPending (a : Nat) (b : Byte) : (s.writeByte a b).drawPending = s.drawPending := rfl
@[simp] theorem State.writeByte_keys (a : Nat) (b : Byte) : (s.writeByte a b).keys = s.keys := rfl
@[simp] theorem State.writeByte_status (a : Nat) (b : Byte) : (s.writeByte a b).status = s.status := rfl
@[simp] theorem State.writeByte_rndQueue (a : Nat) (b : Byte) : (s.writeByte a b).rndQueue = s.rndQueue := rfl
@[simp] theorem State.writeByte_rndSteps (a : Nat) (b : Byte) : (s.writeByte a b).rndSteps = s.rndSteps := rfl
@[simp] theorem State.writeByte_reports (a : Nat) (b : Byte) : (s.writeByte a b).reports = s.reports := rfl

@[simp] theorem State.writeByte_reg (a : Nat) (b : Byte) (r : Nibble) : (s.writeByte a b).reg r = s.reg r := rfl
@[simp] theorem State.writeByte_key (a : Nat) (b : Byte) (j : Nibble) : (s.writeByte a b).key j = s.key j := rfl
@[simp] theorem State.writeByte_isHalted (a : Nat) (b : Byte) : (s.writeByte a b).isHalted = s.isHalted := rfl

/-! ### showFrame -/

@[simp] theorem State.showFrame_cfg (d : Display) : (s.showFrame d).cfg = s.cfg := rfl
@[simp] theorem State.showFrame_mem (d : Display) : (s.showFrame d).mem = s.mem := rfl
@[simp] theorem State.showFrame_v (d : Display) : (s.showFrame d).v = s.v := rfl
@[simp] theorem State.showFrame_i (d : Display) : (s.showFrame d).i = s.i := rfl
@[simp] theorem State.showFrame_pc (d : Display) : (s.showFrame d).pc = s.pc := rfl
@[simp] theorem State.showFrame_stack (d : Display) : (s.showFrame d).stack = s.stack := rfl
@[simp] theorem State.showFrame_sp (d : Display) : (s.showFrame d).sp = s.sp := rfl
@[simp] theorem State.showFrame_dt (d : Display) : (s.showFrame d).dt = s.dt := rfl
@[simp] theorem State.showFrame_st (d : Display) : (s.showFrame d).st = s.st := rfl
@[simp] theorem State.showFrame_disp (d : Display) : (s.showFrame d).disp = d := rfl
@[simp] theorem State.showFrame_drawPending (d : Display) : (s.showFrame d).drawPending = true := rfl
@[simp] theorem State.showFrame_keys (d : Display) : (s.showFrame d).keys = s.keys := rfl
@[simp] theorem State.showFrame_status (d : Display) : (s.showFrame d).status = s.status := rfl
@[simp] theorem State.showFrame_rndQueue (d : Display) : (s.showFrame d).rndQueue = s.rndQueue := rfl
@[simp] theorem State.showFrame_rndSteps (d : Display) : (s.showFrame d).rndSteps = s.rndSteps := rfl
@[simp] theorem State.showFrame_reports (d : Display) : (s.showFrame d).reports = s.reports := rfl

@[simp] theorem State.showFrame_reg (d : Display) (r : Nibble) : (s.showFrame d).reg r = s.reg r := rfl
@[simp] theorem State.showFrame_readByte (d : Display) (m : Nat) : (s.showFrame d).readByte m = s.readByte m := rfl
@[simp] theorem State.showFrame_key (d : Display) (j : Nibble) : (s.showFrame d).key j = s.key j := rfl
@[simp] theorem State.showFrame_isHalted (d : Display) : (s.showFrame d).isHalted = s.isHalted := rfl

/-! ### setStatus -/

@[simp] theorem State.setStatus_cfg (x : Status) : (s.setStatus x).cfg = s.cfg := rfl
@[simp] theorem State.setStatus_mem (x : Status) : (s.setStatus x).mem = s.mem := rfl
@[simp] theorem State.setStatus_v (x : Status) : (s.setStatus x).v = s.v := rfl
@[simp] theorem State.setStatus_i (x : Status) : (s.setStatus x).i = s.i := rfl
@[simp] theorem State.setStatus_pc (x : Status) : (s.setStatus x).pc = s.pc := rfl
@[simp] theorem State.setStatus_stack (x : Status) : (s.setStatus x).stack = s.stack := rfl
@[simp] theorem State.setStatus_sp (x : Status) : (s.setStatus x).sp = s.sp := rfl
@[simp] theorem State.setStatus_dt (x : Status) : (s.setStatus x).dt = s.dt := rfl
@[simp] theorem State.setStatus_st (x : Status) : (s.setStatus x).st = s.st := rfl
@[simp] theorem State.setStatus_disp (x : Status) : (s.setStatus x).disp = s.disp := rfl
@[simp] theorem State.setStatus_drawPending (x : Status) : (s.setStatus x).drawPending = s.drawPending := rfl
@[simp] theorem State.setStatus_keys (x : Status) : (s.setStatus x).keys = s.keys := rfl
@[simp] theorem State.setStatus_status (x : Status) : (s.setStatus x).status = x := rfl
@[simp] theorem State.setStatus_rndQueue (x : Status) : (s.setStatus x).rndQueue = s.rndQueue := rfl
@[simp] theorem State.setStatus_rndSteps (x : Status) : (s.setStatus x).rndSteps = s.rndSteps := rfl
@[simp] theorem State.setStatus_reports (x : Status) : (s.setStatus x).reports = s.reports := rfl

@[simp] theorem State.setStatus_reg (x : Status) (r : Nibble) : (s.setStatus x).reg r = s.reg r := rfl
@[simp] theorem State.setStatus_readByte (x : Status) (m : Nat) : (s.setStatus x).readByte m = s.readByte m := rfl
@[simp] theorem State.setStatus_key (x : Status) (j : Nibble) : (s.setStatus x).key j = s.key j := rfl

/-! ### raiseFatal -/

@[simp] theorem State.raiseFatal_cfg (c : FatalCause) (op : Option Word) : (s.raiseFatal c op).cfg = s.cfg := rfl
@[simp] theorem State.raiseFatal_mem (c : FatalCause) (op : Option Word) : (s.raiseFatal c op).mem = s.mem := rfl
@[simp] theorem State.raiseFatal_v (c : FatalCause) (op : Option Word) : (s.raiseFatal c op).v = s.v := rfl
@[simp] theorem State.raiseFatal_i (c : FatalCause) (op : Option Word) : (s.raiseFatal c op).i = s.i := rfl
@[simp] theorem State.raiseFatal_pc (c : FatalCause) (op : Option Word) : (s.raiseFatal c op).pc = s.pc := rfl
@[simp] theorem State.raiseFatal_stack (c : FatalCause) (op : Option Word) : (s.raiseFatal c op).stack = s.stack := rfl
@[simp] theorem State.raiseFatal_sp (c : FatalCause) (op : Option Word) : (s.raiseFatal c op).sp = s.sp := rfl
@[simp] theorem State.raiseFatal_dt (c : FatalCause) (op : Option Word) : (s.raiseFatal c op).dt = s.dt := rfl
@[simp] theorem State.raiseFatal_st (c : FatalCause) (op : Option Word) : (s.raiseFatal c op).st = s.st := rfl
@[simp] theorem State.raiseFatal_disp (c : FatalCause) (op : Option Word) : (s.raiseFatal c op).disp = s.disp := rfl
@[simp] theorem State.raiseFatal_drawPending (c : FatalCause) (op : Option Word) : (s.raiseFatal c op).drawPending = s.drawPending := rfl
@[simp] theorem State.raiseFatal_keys (c : FatalCause) (op : Option Word) : (s.raiseFatal c op).keys = s.keys := rfl
@[simp] theorem State.raiseFatal_status (c : FatalCause) (op : Option Word) : (s.raiseFatal c op).status = .halted { cause := c, pc := s.pc, op := op } := rfl
@[simp] theorem State.raiseFatal_rndQueue (c : FatalCause) (op : Option Word) : (s.raiseFatal c op).rndQueue = s.rndQueue := rfl
@[simp] theorem State.raiseFatal_rndSteps (c : FatalCause) (op : Option Word) : (s.raiseFatal c op).rndSteps = s.rndSteps := rfl
@[simp] theorem State.raiseFatal_reports (c : FatalCause) (op : Option Word) : (s.raiseFatal c op).reports = s.reports := rfl

@[simp] theorem State.raiseFatal_reg (c : FatalCause) (op : Option Word) (r : Nibble) : (s.raiseFatal c op).reg r = s.reg r := rfl
@[simp] theorem State.raiseFatal_readByte (c : FatalCause) (op : Option Word) (m : Nat) : (s.raiseFatal c op).readByte m = s.readByte m := rfl
@[simp] theorem State.raiseFatal_key (c : FatalCause) (op : Option Word) (j : Nibble) : (s.raiseFatal c op).key j = s.key j := rfl

/-! ### nextRnd -/

@[simp] theorem State.nextRnd_cfg : (s.nextRnd).cfg = s.cfg := rfl
@[simp] theorem State.nextRnd_mem : (s.nextRnd).mem = s.mem := rfl
@[simp] theorem State.nextRnd_v : (s.nextRnd).v = s.v := rfl
@[simp] theorem State.nextRnd_i : (s.nextRnd).i = s.i := rfl
@[simp] theorem State.nextRnd_pc : (s.nextRnd).pc = s.pc := rfl
@[simp] theorem State.nextRnd_stack : (s.nextRnd).stack = s.stack := rfl
@[simp] theorem State.nextRnd_sp : (s.nextRnd).sp = s.sp := rfl
@[simp] theorem State.nextRnd_dt : (s.nextRnd).dt = s.dt := rfl
@[simp] theorem State.nextRnd_st : (s.nextRnd).st = s.st := rfl
@[simp] theorem State.nextRnd_disp : (s.nextRnd).disp = s.disp := rfl
@[simp] theorem State.nextRnd_drawPending : (s.nextRnd).drawPending = s.drawPending := rfl
@[simp] theorem State.nextRnd_keys : (s.nextRnd).keys = s.keys := rfl
@[simp] theorem State.nextRnd_status : (s.nextRnd).status = s.status := rfl
@[simp] theorem State.nextRnd_rndQueue : (s.nextRnd).rndQueue = s.rndQueue.tail := rfl
@[simp] theorem State.nextRnd_rndSteps : (s.nextRnd).rndSteps = s.rndSteps + 1 := rfl
@[simp] theorem State.nextRnd_reports : (s.nextRnd).reports = s.reports := rfl

@[simp] theorem State.nextRnd_reg (r : Nibble) : (s.nextRnd).reg r = s.reg r := rfl
@[simp] theorem State.nextRnd_readByte (m : Nat) : (s.nextRnd).readByte m = s.readByte m := rfl
@[simp] theorem State.nextRnd_key (j : Nibble) : (s.nextRnd).key j = s.key j := rfl
@[simp] theorem State.nextRnd_isHalted : (s.nextRnd).isHalted = s.isHalted := rfl

/-! ### report -/

@[simp] theorem State.report_cfg (op : Word) : (s.report op).cfg = s.cfg := rfl
@[simp] theorem State.report_mem (op : Word) : (s.report op).mem = s.mem := rfl
@[simp] theorem State.report_v (op : Word) : (s.report op).v = s.v := rfl
@[simp] theorem State.report_i (op : Word) : (s.report op).i = s.i := rfl
@[simp] theorem State.report_pc (op : Word) : (s.report op).pc = s.pc := rfl
@[simp] theorem State.report_stack (op : Word) : (s.report op).stack = s.stack := rfl
@[simp] theorem State.report_sp (op : Word) : (s.report op).sp = s.sp := rfl
@[simp] theorem State.report_dt (op : Word) : (s.report op).dt = s.dt := rfl
@[simp] theorem State.report_st (op : Word) : (s.report op).st = s.st := rfl
@[simp] theorem State.report_disp (op : Word) : (s.report op).disp = s.disp := rfl
@[simp] theorem State.report_drawPending (op : Word) : (s.report op).drawPending = s.drawPending := rfl
@[simp] theorem State.report_keys (op : Word) : (s.report op).keys = s.keys := rfl
@[simp] theorem State.report_status (op : Word) : (s.report op).status = s.status := rfl
@[simp] theorem State.report_rndQueue (op : Word) : (s.report op).rndQueue = s.rndQueue := rfl
@[simp] theorem State.report_rndSteps (op : Word) : (s.report op).rndSteps = s.rndSteps := rfl
@[simp] theorem State.report_reports (op : Word) : (s.report op).reports = s.reports ++ [{ pc := s.pc, op := op }] := rfl

@[simp] theorem State.report_reg (op : Word) (r : Nibble) : (s.report op).reg r = s.reg r := rfl
@[simp] theorem State.report_readByte (op : Word) (m : Nat) : (s.report op).readByte m = s.readByte m := rfl
@[simp] theorem State.report_key (op : Word) (j : Nibble) : (s.report op).key j = s.key j := rfl
@[simp] theorem State.report_isHalted (op : Word) : (s.report op).isHalted = s.isHalted := rfl

/-! ### tick -/

@[simp] theorem State.tick_cfg : (s.tick).cfg = s.cfg := rfl
@[simp] theorem State.tick_mem : (s.tick).mem = s.mem := rfl
@[simp] theorem State.tick_v : (s.tick).v = s.v := rfl
@[simp] theorem State.tick_i : (s.tick).i = s.i := rfl
@[simp] theorem State.tick_pc : (s.tick).pc = s.pc := rfl
@[simp] theorem State.tick_stack : (s.tick).stack = s.stack := rfl
@[simp] theorem State.tick_sp : (s.tick).sp = s.sp := rfl
@[simp] theorem State.tick_dt : (s.tick).dt = tickByte s.dt := rfl
@[simp] theorem State.tick_st : (s.tick).st = tickByte s.st := rfl
@[simp] theorem State.tick_disp : (s.tick).disp = s.disp := rfl
@[simp] theorem State.tick_drawPending : (s.tick).drawPending = s.drawPending := rfl
@[simp] theorem State.tick_keys : (s.tick).keys = s.keys := rfl
@[simp] theorem State.tick_status : (s.tick).status = s.status := rfl
@[simp] theorem State.tick_rndQueue : (s.tick).rndQueue = s.rndQueue := rfl
@[simp] theorem State.tick_rndSteps : (s.tick).rndSteps = s.rndSteps := rfl
@[simp] theorem State.tick_reports : (s.tick).reports = s.reports := rfl

@[simp] theorem State.tick_reg (r : Nibble) : (s.tick).reg r = s.reg r := rfl
@[simp] theorem State.tick_readByte (m : Nat) : (s.tick).readByte m = s.readByte m := rfl
@[simp] theorem State.tick_key (j : Nibble) : (s.tick).key j = s.key j := rfl
@[simp] theorem State.tick_isHalted : (s.tick).isHalted = s.isHalted := rfl

/-! ### setKey -/

@[simp] theorem State.setKey_cfg (k : Nibble) (b : Bool) : (s.setKey k b).cfg = s.cfg := rfl
@[simp] theorem State.setKey_mem (k : Nibble) (b : Bool) : (s.setKey k b).mem = s.mem := rfl
@[simp] theorem State.setKey_v (k : Nibble) (b : Bool) : (s.setKey k b).v = s.v := rfl
@[simp] theorem State.setKey_i (k : Nibble) (b : Bool) : (s.setKey k b).i = s.i := rfl
@[simp] theorem State.setKey_pc (k : Nibble) (b : Bool) : (s.setKey k b).pc = s.pc := rfl
@[simp] theorem State.setKey_stack (k : Nibble) (b : Bool) : (s.setKey k b).stack = s.stack := rfl
@[simp] theorem State.setKey_sp (k : Nibble) (b : Bool) : (s.setKey k b).sp = s.sp := rfl
@[simp] theorem State.setKey_dt (k : Nibble) (b : Bool) : (s.setKey k b).dt = s.dt := rfl
@[simp] theorem State.setKey_st (k : Nibble) (b : Bool) : (s.setKey k b).st = s.st := rfl
@[simp] theorem State.setKey_disp (k : Nibble) (b : Bool) : (s.setKey k b).disp = s.disp := rfl
@[simp] theorem State.setKey_drawPending (k : Nibble) (b : Bool) : (s.setKey k b).drawPending = s.drawPending := rfl
@[simp] theorem State.setKey_keys (k : Nibble) (b : Bool) : (s.setKey k b).keys = s.keys.set k.val b := rfl
@[simp] theorem State.setKey_status (k : Nibble) (b : Bool) : (s.setKey k b).status = s.status := rfl
@[simp] theorem State.setKey_rndQueue (k : Nibble) (b : Bool) : (s.setKey k b).rndQueue = s.rndQueue := rfl
@[simp] theorem State.setKey_rndSteps (k : Nibble) (b : Bool) : (s.setKey k b).rndSteps = s.rndSteps := rfl
@[simp] theorem State.setKey_reports (k : Nibble) (b : Bool) : (s.setKey k b).reports = s.reports := rfl

@[simp] theorem State.setKey_reg (k : Nibble) (b : Bool) (r : Nibble) : (s.setKey k b).reg r = s.reg r := rfl
@[simp] theorem State.setKey_readByte (k : Nibble) (b : Bool) (m : Nat) : (s.setKey k b).readByte m = s.readByte m := rfl
@[simp] theorem State.setKey_isHalted (k : Nibble) (b : Bool) : (s.setKey k b).isHalted = s.isHalted := rfl

/-! ### clearDrawPending -/

@[simp] theorem State.clearDrawPending_cfg : (s.clearDrawPending).cfg = s.cfg := rfl
@[simp] theorem State.clearDrawPending_mem : (s.clearDrawPending).mem = s.mem := rfl
@[simp] theorem State.clearDrawPending_v : (s.clearDrawPending).v = s.v := rfl
@[simp] theorem State.clearDrawPending_i : (s.clearDrawPending).i = s.i := rfl
@[simp] theorem State.clearDrawPending_pc : (s.clearDrawPending).pc = s.pc := rfl
@[simp] theorem State.clearDrawPending_stack : (s.clearDrawPending).stack = s.stack := rfl
@[simp] theorem State.clearDrawPending_sp : (s.clearDrawPending).sp = s.sp := rfl
@[simp] theorem State.clearDrawPending_dt : (s.clearDrawPending).dt = s.dt := rfl
@[simp] theorem State.clearDrawPending_st : (s.clearDrawPending).st = s.st := rfl
@[simp] theorem State.clearDrawPending_disp : (s.clearDrawPending).disp = s.disp := rfl
@[simp] theorem State.clearDrawPending_drawPending : (s.clearDrawPending).drawPending = false := rfl
@[simp] theorem State.clearDrawPending_keys : (s.clearDrawPending).keys = s.keys := rfl
@[simp] theorem State.clearDrawPending_status : (s.clearDrawPending).status = s.status := rfl
@[simp] theorem State.clearDrawPending_rndQueue : (s.clearDrawPending).rndQueue = s.rndQueue := rfl
@[simp] theorem State.clearDrawPending_rndSteps : (s.clearDrawPending).rndSteps = s.rndSteps := rfl
@[simp] theorem State.clearDrawPending_reports : (s.clearDrawPending).reports = s.reports := rfl

@[simp] theorem State.clearDrawPending_reg (r : Nibble) : (s.clearDrawPending).reg r = s.reg r := rfl
@[simp] theorem State.clearDrawPending_readByte (m : Nat) : (s.clearDrawPending).readByte m = s.readByte m := rfl
@[simp] theorem State.clearDrawPending_key (j : Nibble) : (s.clearDrawPending).key j = s.key j := rfl
@[simp] theorem State.clearDrawPending_isHalted : (s.clearDrawPending).isHalted = s.isHalted := rfl

/-! ### provideRnd -/

@[simp] theorem State.provideRnd_cfg (b : Byte) : (s.provideRnd b).cfg = s.cfg := rfl
@[simp] theorem State.provideRnd_mem (b : Byte) : (s.provideRnd b).mem = s.mem := rfl
@[simp] theorem State.provideRnd_v (b : Byte) : (s.provideRnd b).v = s.v := rfl
@[simp] theorem State.provideRnd_i (b : Byte) : (s.provideRnd b).i = s.i := rfl
@[simp] theorem State.provideRnd_pc (b : Byte) : (s.provideRnd b).pc = s.pc := rfl
@[simp] theorem State.provideRnd_stack (b : Byte) : (s.provideRnd b).stack = s.stack := rfl
@[simp] theorem State.provideRnd_sp (b : Byte) : (s.provideRnd b).sp = s.sp := rfl
@[simp] theorem State.provideRnd_dt (b : Byte) : (s.provideRnd b).dt = s.dt := rfl
@[simp] theorem State.provideRnd_st (b : Byte) : (s.provideRnd b).st = s.st := rfl
@[simp] theorem State.provideRnd_disp (b : Byte) : (s.provideRnd b).disp = s.disp := rfl
@[simp] theorem State.provideRnd_drawPending (b : Byte) : (s.provideRnd b).drawPending = s.drawPending := rfl
@[simp] theorem State.provideRnd_keys (b : Byte) : (s.provideRnd b).keys = s.keys := rfl
@[simp] theorem State.provideRnd_status (b : Byte) : (s.provideRnd b).status = s.status := rfl
@[simp] theorem State.provideRnd_rndQueue (b : Byte) : (s.provideRnd b).rndQueue = s.rndQueue ++ [b] := rfl
@[simp] theorem State.provideRnd_rndSteps (b : Byte) : (s.provideRnd b).rndSteps = s.rndSteps := rfl
@[simp] theorem State.provideRnd_reports (b : Byte) : (s.provideRnd b).reports = s.reports := rfl

@[simp] theorem State.provideRnd_reg (b : Byte) (r : Nibble) : (s.provideRnd b).reg r = s.reg r := rfl
@[simp] theorem State.provideRnd_readByte (b : Byte) (m : Nat) : (s.provideRnd b).readByte m = s.readByte m := rfl
@[simp] theorem State.provideRnd_key (b : Byte) (j : Nibble) : (s.provideRnd b).key j = s.key j := rfl
@[simp] theorem State.provideRnd_isHalted (b : Byte) : (s.provideRnd b).isHalted = s.isHalted := rfl

/-! ### Reads of what an update wrote -/

theorem State.setReg_reg (x : Nibble) (b : Byte) (r : Nibble) :
    (s.setReg x b).reg r = if r = x then b else s.reg r := by
  simp [State.reg, State.setReg, Vector.getElem_set, Fin.ext_iff, eq_comm]

@[simp] theorem State.setReg_reg_same (x : Nibble) (b : Byte) : (s.setReg x b).reg x = b := by
  simp [State.setReg_reg]

theorem State.setReg_reg_other {x r : Nibble} (b : Byte) (h : r ≠ x) : (s.setReg x b).reg r = s.reg r := by
  simp [State.setReg_reg, h]

theorem State.setKey_key (k : Nibble) (b : Bool) (j : Nibble) :
    (s.setKey k b).key j = if j = k then b else s.key j := by
  simp [State.key, State.setKey, Vector.getElem_set, Fin.ext_iff, eq_comm]

theorem State.writeByte_read_other {a m : Nat} (b : Byte) (h : m ≠ a) :
    (s.writeByte a b).readByte m = s.readByte m := Memory.read_write_other h

theorem State.writeByte_read_same {a : Nat} (b : Byte) (h : s.mem.wf s.cfg = true) :
    (s.writeByte a b).readByte a = b := Memory.read_write_same h

@[simp] theorem State.setStatus_isHalted_running : (s.setStatus .running).isHalted = false := rfl

@[simp] theorem State.setStatus_isHalted_waiting : (s.setStatus .waitingKey).isHalted = false := rfl

@[simp] theorem State.raiseFatal_isHalted (c : FatalCause) (op : Option Word) : (s.raiseFatal c op).isHalted = true := rfl

/-- The status is HALTED exactly when `isHalted` says so. -/
theorem State.isHalted_iff : s.isHalted = true ↔ ∃ rec, s.status = .halted rec := by
  unfold State.isHalted
  cases s.status <;> simp

theorem State.isHalted_false_iff : s.isHalted = false ↔ ∀ rec, s.status ≠ .halted rec := by
  unfold State.isHalted
  cases s.status <;> simp

/-! ### The display -/

theorem Display.setPixel_pixel (d : Display) (x x' : Fin 64) (y y' : Fin 32) (b : Bool) :
    (d.setPixel x y b).pixel x' y' = if x' = x ∧ y' = y then b else d.pixel x' y' := by
  simp only [Display.pixel, Display.setPixel, Vector.getElem_set, Fin.ext_iff]
  by_cases hy : y.val = y'.val <;> by_cases hx : x.val = x'.val <;>
    simp [hx, hy, eq_comm (a := x'.val), eq_comm (a := y'.val)]

@[simp] theorem Display.blank_pixel (x : Fin 64) (y : Fin 32) : Display.blank.pixel x y = false := by
  simp [Display.pixel, Display.blank]

/-- Frames that agree on every pixel are equal. -/
theorem Display.ext_pixel {d e : Display} (h : ∀ x y, d.pixel x y = e.pixel x y) : d = e := by
  refine Vector.ext fun y hy => Vector.ext fun x hx => ?_
  exact h ⟨x, hx⟩ ⟨y, hy⟩

end Sys2Proof.Machine
end

