-- ==== Sys2Proof/Laws/Ops.lean ====
section
/-!
SUPPORT. One lemma for each shared operation of Sys2Proof/Machine/Ops.lean, Operands.lean and Flags.lean that says once everything it
can do; proofs cite these and do not unfold the operations.
-/

namespace Sys2Proof.Machine

variable (s : State)

/-! ### Nibbles -/

theorem mem_nibbles (k : Nibble) : k ∈ nibbles := by revert k; decide

theorem mem_regsUpTo (x r : Nibble) : r ∈ regsUpTo x ↔ r ≤ x := by revert x r; decide

theorem length_regsUpTo (x : Nibble) : (regsUpTo x).length = x.val + 1 := by revert x; decide

/-- The `k`-th entry of `regsUpTo x` is `k`. -/
theorem getElem_regsUpTo (x : Nibble) (k : Nat) (h : k < (regsUpTo x).length) : ((regsUpTo x)[k]).val = k := by
  rw [length_regsUpTo] at h
  have hx := x.isLt
  have key : ∀ x k : Nibble, k.val < x.val + 1 → (regsUpTo x)[k.val]? = some k := by decide
  have := key x ⟨k, by omega⟩ h
  rw [List.getElem?_eq_some_iff] at this
  obtain ⟨_, h2⟩ := this
  rw [h2]

/-! ### Consecutive bytes -/

/-- Writing bytes changes memory alone. -/
theorem State.writeBytes_eq (a : Nat) (bs : List Byte) : s.writeBytes a bs = { s with mem := (s.writeBytes a bs).mem } := by
  induction bs generalizing s a with
  | nil => rfl
  | cons b bs ih => rw [State.writeBytes, ih]; rfl

/-- Every address outside the written bytes reads as before. -/
theorem State.writeBytes_read_outside (a : Nat) (bs : List Byte) {m : Nat} (h : m < a ∨ a + bs.length ≤ m) :
    (s.writeBytes a bs).readByte m = s.readByte m := by
  induction bs generalizing s a with
  | nil => rfl
  | cons b bs ih =>
    simp only [List.length_cons] at h
    rw [State.writeBytes, ih _ _ (by omega), State.writeByte_read_other _ _ (by omega)]

/-- Writing bytes that all exist keeps memory canonical. -/
theorem State.writeBytes_wf (a : Nat) (bs : List Byte) (hw : s.mem.wf s.cfg = true) (h : a + bs.length ≤ memSize) :
    (s.writeBytes a bs).mem.wf s.cfg = true := by
  induction bs generalizing s a with
  | nil => exact hw
  | cons b bs ih =>
    simp only [List.length_cons] at h
    exact ih (s.writeByte a b) (a + 1) (Memory.wf_write hw (by omega)) (by omega)

/-- Each written address reads as the byte written to it. -/
theorem State.writeBytes_read_inside (a : Nat) (bs : List Byte) (hw : s.mem.wf s.cfg = true)
    (h : a + bs.length ≤ memSize) (k : Nat) (hk : k < bs.length) : (s.writeBytes a bs).readByte (a + k) = bs[k] := by
  induction bs generalizing s a k with
  | nil => simp at hk
  | cons b bs ih =>
    simp only [List.length_cons] at h hk
    have hw' : (s.writeByte a b).mem.wf (s.writeByte a b).cfg = true := Memory.wf_write hw (by omega)
    cases k with
    | zero =>
      rw [State.writeBytes, State.writeBytes_read_outside _ _ _ (by omega)]
      exact State.writeByte_read_same _ _ hw
    | succ k =>
      have := ih (s.writeByte a b) (a + 1) hw' (by omega) k (by omega)
      simpa [State.writeBytes, Nat.add_assoc, Nat.add_comm 1 k] using this

@[simp] theorem State.length_readBytes (a k : Nat) : (s.readBytes a k).length = k := by simp [State.readBytes]

@[simp] theorem State.getElem_readBytes (a k j : Nat) (h : j < (s.readBytes a k).length) :
    (s.readBytes a k)[j] = s.readByte (a + j) := by simp [State.readBytes]

/-! ### Range check -/

/-- The bytes accessed all exist: none is accessed, or the last one is at most 4095. -/
theorem State.inRange_iff (k : Nat) : s.inRange k = true ↔ k = 0 ∨ s.i.toNat + k ≤ 4096 := by
  simp only [State.inRange, Bool.or_eq_true, beq_iff_eq, decide_eq_true_eq]
  unfold State.lastAddr memSize
  omega

/-! ### Call stack -/

/-- A push on a stack that is not full: the entry at SP is written and SP rises. -/
theorem State.push?_of_lt (a : Word) (h : s.sp.val < 16) :
    s.push? a = some { s with stack := s.stack.set s.sp.val a, sp := ⟨s.sp.val + 1, by omega⟩ } := by
  simp [State.push?, h]

/-- A push on a full stack fails. -/
theorem State.push?_full (a : Word) (h : s.sp.val = 16) : s.push? a = none := by simp [State.push?, h]

/-- A pop of a stack that is not empty: SP falls and the entry there is read and kept. -/
theorem State.pop?_of_pos (h : 0 < s.sp.val) :
    s.pop? = some (s.stack[s.sp.val - 1]'(by omega), { s with sp := ⟨s.sp.val - 1, by omega⟩ }) := by
  simp [State.pop?, h]

/-- A pop of an empty stack fails. -/
theorem State.pop?_empty (h : s.sp.val = 0) : s.pop? = none := by simp [State.pop?, h]

/-! ### Register writes -/

/-- The two writes of a flag-setting instruction change V alone. -/
theorem State.writeFlagged_eq (x : Nibble) (res f : Byte) :
    s.writeFlagged x res f = { s with v := (s.writeFlagged x res f).v } := by
  unfold State.writeFlagged
  split <;> rfl

/-- What each register holds after the two writes. -/
theorem State.writeFlagged_reg (x r : Nibble) (res f : Byte) :
    (s.writeFlagged x res f).reg r =
      if r = x ∧ (r ≠ vf ∨ s.cfg.flagOrder = .flagThenResult) then res else if r = vf then f else s.reg r := by
  unfold State.writeFlagged
  cases s.cfg.flagOrder <;> simp only [State.setReg_reg] <;> by_cases hx : r = x <;> by_cases hv : r = vf <;> simp [hx, hv]
  all_goals simp_all

theorem State.foldl_setReg_eq (f : Nibble → Byte) (l : List Nibble) :
    l.foldl (fun t r => t.setReg r (f r)) s = { s with v := (l.foldl (fun t r => t.setReg r (f r)) s).v } := by
  induction l generalizing s with
  | nil => rfl
  | cons r l ih => rw [List.foldl_cons, ih]; rfl

theorem State.foldl_setReg_reg (f : Nibble → Byte) (l : List Nibble) (j : Nibble) :
    (l.foldl (fun t r => t.setReg r (f r)) s).reg j = if j ∈ l then f j else s.reg j := by
  induction l generalizing s with
  | nil => simp
  | cons r l ih =>
    rw [List.foldl_cons, ih, State.setReg_reg]
    by_cases h : j ∈ l <;> by_cases hr : j = r <;> simp [h, hr]

/-- Loading V0..VX from I changes V alone. -/
theorem State.loadRegsFromI_eq (x : Nibble) : s.loadRegsFromI x = { s with v := (s.loadRegsFromI x).v } :=
  s.foldl_setReg_eq (fun r => s.readByte (s.addrI r.val)) (regsUpTo x)

/-- What each register holds after loading V0..VX from I. -/
theorem State.loadRegsFromI_reg (x j : Nibble) :
    (s.loadRegsFromI x).reg j = if j ≤ x then s.readByte (s.i.toNat + j.val) else s.reg j := by
  have := s.foldl_setReg_reg (fun r => s.readByte (s.addrI r.val)) (regsUpTo x) j
  simpa only [State.loadRegsFromI, mem_regsUpTo, State.addrI] using this

/-! ### The input latch -/

/-- What stands before `k` in the rising list of all nibbles is everything below `k`. -/
theorem mem_before_of_nibbles_eq {k j : Nibble} {as bs : List Nibble} (e : nibbles = as ++ k :: bs) (hj : j < k) : j ∈ as := by
  have hp : nibbles.Pairwise (· < ·) := by decide
  have hm := mem_nibbles j
  rw [e] at hp hm
  rcases List.mem_append.1 hm with h | h
  · exact h
  · have hrest := (List.pairwise_cons.1 (List.pairwise_append.1 hp).2.1).1
    rcases List.mem_cons.1 h with rfl | h
    · exact absurd hj (lt_irrefl _)
    · exact absurd (hrest j h) (not_lt.2 hj.le)

theorem State.firstKey_spec {k : Nibble} (h : s.firstKey = some k) : s.key k = true ∧ ∀ j < k, s.key j = false := by
  obtain ⟨-, as, bs, e, hn⟩ := List.find?_eq_some_iff_append.1 h
  exact ⟨List.find?_some h, fun j hj => by simpa using hn j (mem_before_of_nibbles_eq e hj)⟩

/-- The least pressed key. -/
theorem State.firstKey_eq_some (k : Nibble) : s.firstKey = some k ↔ s.key k = true ∧ ∀ j < k, s.key j = false := by
  refine ⟨s.firstKey_spec, fun ⟨h1, h2⟩ => ?_⟩
  cases h : s.firstKey with
  | none => exact absurd h1 (List.find?_eq_none.1 h k (mem_nibbles k))
  | some k' =>
    obtain ⟨h3, h4⟩ := s.firstKey_spec h
    rcases lt_trichotomy k k' with hlt | rfl | hlt
    · exact absurd h1 (by simp [h4 k hlt])
    · rfl
    · exact absurd h3 (by simp [h2 k' hlt])

/-- No key is pressed. -/
theorem State.firstKey_eq_none : s.firstKey = none ↔ ∀ k, s.key k = false := by
  simp only [State.firstKey, List.find?_eq_none, Bool.not_eq_true]
  exact ⟨fun h k => h k (mem_nibbles k), fun h k _ => h k⟩

/-! ### Storing at I -/

/-- A store of bytes that all exist. -/
theorem State.storeAtI_of_inRange (bs : List Byte) (op : Word) (h : s.inRange bs.length = true) :
    s.storeAtI bs op = (s.writeBytes s.i.toNat bs).advance := by simp [State.storeAtI, h]

/-- A store of bytes that do not all exist raises MEM_WRITE_OUT_OF_RANGE. -/
theorem State.storeAtI_of_not_inRange (bs : List Byte) (op : Word) (h : s.inRange bs.length = false) :
    s.storeAtI bs op = s.raiseFatal (.memWriteOutOfRange (s.lastAddr bs.length)) (some op) := by
  simp [State.storeAtI, h]

@[simp] theorem length_bcdDigits (b : Byte) : (bcdDigits b).length = 3 := rfl

@[simp] theorem State.length_regsBytes (x : Nibble) : (s.regsBytes x).length = x.val + 1 := by
  simp [State.regsBytes, length_regsUpTo]

/-- The `k`-th stored byte of FX55 is `V[k]`. -/
theorem State.getElem_regsBytes (x : Nibble) (k : Nat) (h : k < (s.regsBytes x).length) :
    (s.regsBytes x)[k] = s.reg (Fin.ofNat 16 k) := by
  have hk : k < (regsUpTo x).length := by simpa [State.regsBytes] using h
  simp only [State.regsBytes, List.getElem_map]
  congr 1
  have h1 := getElem_regsUpTo x k hk
  have h2 := (regsUpTo x)[k].isLt
  exact Fin.ext (by simp [Fin.ofNat]; omega)

/-! ### The fields the composed operations keep -/

@[simp] theorem State.writeBytes_cfg (a : Nat) (bs : List Byte) : (s.writeBytes a bs).cfg = s.cfg := by rw [State.writeBytes_eq]
@[simp] theorem State.writeBytes_v (a : Nat) (bs : List Byte) : (s.writeBytes a bs).v = s.v := by rw [State.writeBytes_eq]
@[simp] theorem State.writeBytes_i (a : Nat) (bs : List Byte) : (s.writeBytes a bs).i = s.i := by rw [State.writeBytes_eq]
@[simp] theorem State.writeBytes_pc (a : Nat) (bs : List Byte) : (s.writeBytes a bs).pc = s.pc := by rw [State.writeBytes_eq]
@[simp] theorem State.writeBytes_stack (a : Nat) (bs : List Byte) : (s.writeBytes a bs).stack = s.stack := by rw [State.writeBytes_eq]
@[simp] theorem State.writeBytes_sp (a : Nat) (bs : List Byte) : (s.writeBytes a bs).sp = s.sp := by rw [State.writeBytes_eq]
@[simp] theorem State.writeBytes_dt (a : Nat) (bs : List Byte) : (s.writeBytes a bs).dt = s.dt := by rw [State.writeBytes_eq]
@[simp] theorem State.writeBytes_st (a : Nat) (bs : List Byte) : (s.writeBytes a bs).st = s.st := by rw [State.writeBytes_eq]
@[simp] theorem State.writeBytes_disp (a : Nat) (bs : List Byte) : (s.writeBytes a bs).disp = s.disp := by rw [State.writeBytes_eq]
@[simp] theorem State.writeBytes_drawPending (a : Nat) (bs : List Byte) : (s.writeBytes a bs).drawPending = s.drawPending := by rw [State.writeBytes_eq]
@[simp] theorem State.writeBytes_keys (a : Nat) (bs : List Byte) : (s.writeBytes a bs).keys = s.keys := by rw [State.writeBytes_eq]
@[simp] theorem State.writeBytes_status (a : Nat) (bs : List Byte) : (s.writeBytes a bs).status = s.status := by rw [State.writeBytes_eq]
@[simp] theorem State.writeBytes_rndQueue (a : Nat) (bs : List Byte) : (s.writeBytes a bs).rndQueue = s.rndQueue := by rw [State.writeBytes_eq]
@[simp] theorem State.writeBytes_rndSteps (a : Nat) (bs : List Byte) : (s.writeBytes a bs).rndSteps = s.rndSteps := by rw [State.writeBytes_eq]
@[simp] theorem State.writeBytes_reports (a : Nat) (bs : List Byte) : (s.writeBytes a bs).reports = s.reports := by rw [State.writeBytes_eq]
@[simp] theorem State.writeBytes_reg (a : Nat) (bs : List Byte) (r : Nibble) : (s.writeBytes a bs).reg r = s.reg r := by rw [State.writeBytes_eq]; rfl

@[simp] theorem State.writeFlagged_cfg (x : Nibble) (res f : Byte) : (s.writeFlagged x res f).cfg = s.cfg := by rw [State.writeFlagged_eq]
@[simp] theorem State.writeFlagged_mem (x : Nibble) (res f : Byte) : (s.writeFlagged x res f).mem = s.mem := by rw [State.writeFlagged_eq]
@[simp] theorem State.writeFlagged_i (x : Nibble) (res f : Byte) : (s.writeFlagged x res f).i = s.i := by rw [State.writeFlagged_eq]
@[simp] theorem State.writeFlagged_pc (x : Nibble) (res f : Byte) : (s.writeFlagged x res f).pc = s.pc := by rw [State.writeFlagged_eq]
@[simp] theorem State.writeFlagged_stack (x : Nibble) (res f : Byte) : (s.writeFlagged x res f).stack = s.stack := by rw [State.writeFlagged_eq]
@[simp] theorem State.writeFlagged_sp (x : Nibble) (res f : Byte) : (s.writeFlagged x res f).sp = s.sp := by rw [State.writeFlagged_eq]
@[simp] theorem State.writeFlagged_dt (x : Nibble) (res f : Byte) : (s.writeFlagged x res f).dt = s.dt := by rw [State.writeFlagged_eq]
@[simp] theorem State.writeFlagged_st (x : Nibble) (res f : Byte) : (s.writeFlagged x res f).st = s.st := by rw [State.writeFlagged_eq]
@[simp] theorem State.writeFlagged_disp (x : Nibble) (res f : Byte) : (s.writeFlagged x res f).disp = s.disp := by rw [State.writeFlagged_eq]
@[simp] theorem State.writeFlagged_drawPending (x : Nibble) (res f : Byte) : (s.writeFlagged x res f).drawPending = s.drawPending := by rw [State.writeFlagged_eq]
@[simp] theorem State.writeFlagged_keys (x : Nibble) (res f : Byte) : (s.writeFlagged x res f).keys = s.keys := by rw [State.writeFlagged_eq]
@[simp] theorem State.writeFlagged_status (x : Nibble) (res f : Byte) : (s.writeFlagged x res f).status = s.status := by rw [State.writeFlagged_eq]
@[simp] theorem State.writeFlagged_rndQueue (x : Nibble) (res f : Byte) : (s.writeFlagged x res f).rndQueue = s.rndQueue := by rw [State.writeFlagged_eq]
@[simp] theorem State.writeFlagged_rndSteps (x : Nibble) (res f : Byte) : (s.writeFlagged x res f).rndSteps = s.rndSteps := by rw [State.writeFlagged_eq]
@[simp] theorem State.writeFlagged_reports (x : Nibble) (res f : Byte) : (s.writeFlagged x res f).reports = s.reports := by rw [State.writeFlagged_eq]
@[simp] theorem State.writeFlagged_readByte (x : Nibble) (res f : Byte) (m : Nat) : (s.writeFlagged x res f).readByte m = s.readByte m := by rw [State.writeFlagged_eq]; rfl

@[simp] theorem State.loadRegsFromI_cfg (x : Nibble) : (s.loadRegsFromI x).cfg = s.cfg := by rw [State.loadRegsFromI_eq]
@[simp] theorem State.loadRegsFromI_mem (x : Nibble) : (s.loadRegsFromI x).mem = s.mem := by rw [State.loadRegsFromI_eq]
@[simp] theorem State.loadRegsFromI_i (x : Nibble) : (s.loadRegsFromI x).i = s.i := by rw [State.loadRegsFromI_eq]
@[simp] theorem State.loadRegsFromI_pc (x : Nibble) : (s.loadRegsFromI x).pc = s.pc := by rw [State.loadRegsFromI_eq]
@[simp] theorem State.loadRegsFromI_stack (x : Nibble) : (s.loadRegsFromI x).stack = s.stack := by rw [State.loadRegsFromI_eq]
@[simp] theorem State.loadRegsFromI_sp (x : Nibble) : (s.loadRegsFromI x).sp = s.sp := by rw [State.loadRegsFromI_eq]
@[simp] theorem State.loadRegsFromI_dt (x : Nibble) : (s.loadRegsFromI x).dt = s.dt := by rw [State.loadRegsFromI_eq]
@[simp] theorem State.loadRegsFromI_st (x : Nibble) : (s.loadRegsFromI x).st = s.st := by rw [State.loadRegsFromI_eq]
@[simp] theorem State.loadRegsFromI_disp (x : Nibble) : (s.loadRegsFromI x).disp = s.disp := by rw [State.loadRegsFromI_eq]
@[simp] theorem State.loadRegsFromI_drawPending (x : Nibble) : (s.loadRegsFromI x).drawPending = s.drawPending := by rw [State.loadRegsFromI_eq]
@[simp] theorem State.loadRegsFromI_keys (x : Nibble) : (s.loadRegsFromI x).keys = s.keys := by rw [State.loadRegsFromI_eq]
@[simp] theorem State.loadRegsFromI_status (x : Nibble) : (s.loadRegsFromI x).status = s.status := by rw [State.loadRegsFromI_eq]
@[simp] theorem State.loadRegsFromI_rndQueue (x : Nibble) : (s.loadRegsFromI x).rndQueue = s.rndQueue := by rw [State.loadRegsFromI_eq]
@[simp] theorem State.loadRegsFromI_rndSteps (x : Nibble) : (s.loadRegsFromI x).rndSteps = s.rndSteps := by rw [State.loadRegsFromI_eq]
@[simp] theorem State.loadRegsFromI_reports (x : Nibble) : (s.loadRegsFromI x).reports = s.reports := by rw [State.loadRegsFromI_eq]
@[simp] theorem State.loadRegsFromI_readByte (x : Nibble) (m : Nat) : (s.loadRegsFromI x).readByte m = s.readByte m := by rw [State.loadRegsFromI_eq]; rfl

end Sys2Proof.Machine
end

