-- ==== Sys2Proof/Laws/Engine.lean ====
section
/-!
SUPPORT. What one step can do, said once (`step_cases`), and the lemmas of the engine's parts.
-/

namespace Sys2Proof.Machine

variable {s t : State}

theorem tickByte_toNat (b : Byte) : (tickByte b).toNat = b.toNat - 1 := by
  unfold tickByte
  split
  · simp_all
  · rename_i h
    have : b.toNat ≠ 0 := fun h' => h (BitVec.eq_of_toNat_eq h')
    have := b.isLt
    rw [BitVec.toNat_sub, show (1 : Byte).toNat = 1 from rfl]
    omega

/-- A state that is not halted ends its step with the tick, its random byte used up. -/
theorem State.finish_of_running (h : s.isHalted = false) : s.finish = s.tick.nextRnd := by simp [State.finish, h]

/-- A halted state ends its step as it is. -/
theorem State.finish_of_halted (h : s.isHalted = true) : s.finish = s := by simp [State.finish, h]

@[simp] theorem State.finish_isHalted : s.finish.isHalted = s.isHalted := by
  unfold State.finish
  split <;> simp_all

/-- The end of a step changes the timers and the random port alone. -/
theorem State.finish_eq (s : State) : s.finish =
    { s with dt := s.finish.dt, st := s.finish.st, rndQueue := s.finish.rndQueue, rndSteps := s.finish.rndSteps } := by
  unfold State.finish
  split <;> rfl

theorem State.fetchFaults_iff : s.fetchFaults = true ↔ s.cfg.fetchLimit.val ≤ s.pc.toNat := by simp [State.fetchFaults]

theorem State.fetchFaults_false_iff : s.fetchFaults = false ↔ s.pc.toNat < s.cfg.fetchLimit.val := by
  simp [State.fetchFaults]

/-- A step of a halted machine. -/
theorem step_halted (h : s.isHalted = true) : step s = .next s := by simp [step, engineStep, h]

/-- A step whose fetch is refused. -/
theorem step_fetchFault (h : s.isHalted = false) (hf : s.fetchFaults = true) :
    step s = .next (s.raiseFatal (.fetchOutOfRange s.pc) none) := by simp [step, engineStep, h, hf]

/-- A step that fetches an unknown word. -/
theorem step_unknown (h : s.isHalted = false) (hf : s.fetchFaults = false) (hd : decode s.fetchWord = none) :
    step s = .next ((s.setStatus .running).skipUnknown s.fetchWord).tick.nextRnd := by
  simp only [step, engineStep, h, hf, runWord, hd, Bool.false_eq_true, if_false]
  rfl

/-- A step that fetches an instruction. -/
theorem step_instr (h : s.isHalted = false) (hf : s.fetchFaults = false) {i : Instr} (hd : decode s.fetchWord = some i) :
    step s = finishResult (exec i (s.setStatus .running)) := by simp [step, engineStep, h, hf, runWord, hd]

theorem finishResult_next {r : Result} : finishResult r = .next t ↔ ∃ u, r = .next u ∧ t = u.finish := by
  cases r <;> simp [finishResult, eq_comm]

/-- Everything a step can do. -/
theorem step_cases (h : step s = .next t) :
    (s.isHalted = true ∧ t = s) ∨
    (s.isHalted = false ∧ s.fetchFaults = true ∧ t = s.raiseFatal (.fetchOutOfRange s.pc) none) ∨
    (s.isHalted = false ∧ s.fetchFaults = false ∧ decode s.fetchWord = none ∧
      t = ((s.setStatus .running).skipUnknown s.fetchWord).tick.nextRnd) ∨
    (s.isHalted = false ∧ s.fetchFaults = false ∧
      ∃ i u, decode s.fetchWord = some i ∧ exec i (s.setStatus .running) = .next u ∧ t = u.finish) := by
  cases hh : s.isHalted with
  | true =>
    rw [step_halted hh] at h
    exact .inl ⟨rfl, (Host.Outcome.next.inj h).symm⟩
  | false =>
    cases hf : s.fetchFaults with
    | true =>
      rw [step_fetchFault hh hf] at h
      exact .inr (.inl ⟨rfl, rfl, (Host.Outcome.next.inj h).symm⟩)
    | false =>
      cases hd : decode s.fetchWord with
      | none =>
        rw [step_unknown hh hf hd] at h
        exact .inr (.inr (.inl ⟨rfl, rfl, rfl, (Host.Outcome.next.inj h).symm⟩))
      | some i =>
        rw [step_instr hh hf hd] at h
        obtain ⟨u, hu, rfl⟩ := finishResult_next.1 h
        exact .inr (.inr (.inr ⟨rfl, rfl, i, u, rfl, hu, rfl⟩))

/-! ### The fields the end of a step keeps -/

@[simp] theorem State.finish_cfg (s : State) : s.finish.cfg = s.cfg := by rw [State.finish_eq]
@[simp] theorem State.finish_mem (s : State) : s.finish.mem = s.mem := by rw [State.finish_eq]
@[simp] theorem State.finish_v (s : State) : s.finish.v = s.v := by rw [State.finish_eq]
@[simp] theorem State.finish_i (s : State) : s.finish.i = s.i := by rw [State.finish_eq]
@[simp] theorem State.finish_pc (s : State) : s.finish.pc = s.pc := by rw [State.finish_eq]
@[simp] theorem State.finish_stack (s : State) : s.finish.stack = s.stack := by rw [State.finish_eq]
@[simp] theorem State.finish_sp (s : State) : s.finish.sp = s.sp := by rw [State.finish_eq]
@[simp] theorem State.finish_disp (s : State) : s.finish.disp = s.disp := by rw [State.finish_eq]
@[simp] theorem State.finish_drawPending (s : State) : s.finish.drawPending = s.drawPending := by rw [State.finish_eq]
@[simp] theorem State.finish_keys (s : State) : s.finish.keys = s.keys := by rw [State.finish_eq]
@[simp] theorem State.finish_status (s : State) : s.finish.status = s.status := by rw [State.finish_eq]
@[simp] theorem State.finish_reports (s : State) : s.finish.reports = s.reports := by rw [State.finish_eq]
@[simp] theorem State.finish_reg (s : State) (r : Nibble) : s.finish.reg r = s.reg r := by rw [State.finish_eq]; rfl
@[simp] theorem State.finish_readByte (s : State) (a : Nat) : s.finish.readByte a = s.readByte a := by rw [State.finish_eq]; rfl

/-- What the end of a step leaves in the random port: the next step's bytes, or all of them after a fatal error. -/
theorem State.finish_rndQueue (s : State) : s.finish.rndQueue = if s.isHalted then s.rndQueue else s.rndQueue.tail := by
  unfold State.finish
  split <;> rfl

theorem State.finish_rndSteps (s : State) : s.finish.rndSteps = if s.isHalted then s.rndSteps else s.rndSteps + 1 := by
  unfold State.finish
  split <;> rfl

end Sys2Proof.Machine
end

