-- ==== Sys2Proof/Laws/Exec.lean ====
section
/-!
SUPPORT. The meanings that branch, one lemma for each branch: what the instruction answers there.
-/

namespace Sys2Proof.Machine

variable (s : State)

/-- 2NNN on a stack that is not full. -/
theorem execCall_of_lt (nnn : BitVec 12) (h : s.sp.val < 16) :
    execCall nnn s = .next
      { s with stack := s.stack.set s.sp.val (s.pc + 2), sp := ⟨s.sp.val + 1, by omega⟩, pc := zext16 nnn } := by
  simp only [execCall, State.push?_of_lt s _ h]
  rfl

/-- 2NNN on a full stack. -/
theorem execCall_full (nnn : BitVec 12) (h : s.sp.val = 16) :
    execCall nnn s = .next (s.raiseFatal .stackOverflow (some (encode (.call nnn)))) := by
  simp only [execCall, State.push?_full s _ h]

/-- 00EE on a stack that is not empty. -/
theorem execRet_of_pos (h : 0 < s.sp.val) :
    execRet s = .next
      { s with sp := ⟨s.sp.val - 1, by omega⟩, pc := s.stack[s.sp.val - 1]'(by omega) } := by
  simp only [execRet, State.pop?_of_pos s h]
  rfl

/-- 00EE on an empty stack. -/
theorem execRet_empty (h : s.sp.val = 0) : execRet s = .next (s.raiseFatal .stackUnderflow (some (encode .ret))) := by
  simp only [execRet, State.pop?_empty s h]

/-- The key EX9E and EXA1 test for a number that names a key. -/
theorem State.keyFor_of_lt {k : Byte} (h : k.toNat < 16) : s.keyFor k = some (s.key ⟨k.toNat, h⟩) := by
  simp [State.keyFor, h]

/-- The key EX9E and EXA1 test for a number above 15. -/
theorem State.keyFor_of_ge {k : Byte} (h : 15 < k.toNat) :
    s.keyFor k = match s.cfg.keyOorPolicy with
      | .fault => none
      | .mask => some (s.key (Fin.ofNat 16 k.toNat))
      | .notPressed => some false := by
  unfold State.keyFor
  exact dif_neg (show ¬ k.toNat < 16 by omega)

/-- EX9E on the latch state it tests. -/
theorem execSkp_of_some {x : Nibble} {b : Bool} (h : s.keyFor (s.reg x) = some b) : execSkp x s = .next (s.skipIf b) := by
  simp only [execSkp, h]

theorem execSkp_of_none {x : Nibble} (h : s.keyFor (s.reg x) = none) :
    execSkp x s = .next (s.raiseFatal (.keyIndexOutOfRange (s.reg x)) (some (encode (.skp x)))) := by
  simp only [execSkp, h]

/-- EXA1 on the latch state it tests. -/
theorem execSknp_of_some {x : Nibble} {b : Bool} (h : s.keyFor (s.reg x) = some b) :
    execSknp x s = .next (s.skipIf (!b)) := by
  simp only [execSknp, h]

theorem execSknp_of_none {x : Nibble} (h : s.keyFor (s.reg x) = none) :
    execSknp x s = .next (s.raiseFatal (.keyIndexOutOfRange (s.reg x)) (some (encode (.sknp x)))) := by
  simp only [execSknp, h]

/-- FX0A with a key pressed. -/
theorem execLdVxKey_of_some {x k : Nibble} (h : s.firstKey = some k) :
    execLdVxKey x s = .next (((s.setReg x (BitVec.ofNat 8 k.val)).advance).setStatus .running) := by
  simp only [execLdVxKey, h]

/-- FX0A with no key pressed. -/
theorem execLdVxKey_of_none {x : Nibble} (h : s.firstKey = none) : execLdVxKey x s = .next (s.setStatus .waitingKey) := by
  simp only [execLdVxKey, h]

/-- DXYN with its sprite in memory. -/
theorem execDrw_of_inRange {x y n : Nibble} (h : s.inRange n.val = true) :
    execDrw x y n s = .next
      (((s.setReg vf (flagByte (s.spriteDrawn x y n).2)).showFrame (s.spriteDrawn x y n).1).advance) := by
  simp only [execDrw, h, if_true]

/-- DXYN with its sprite not in memory. -/
theorem execDrw_of_not_inRange {x y n : Nibble} (h : s.inRange n.val = false) :
    execDrw x y n s = .next (s.raiseFatal (.memReadOutOfRange (s.lastAddr n.val)) (some (encode (.drw x y n)))) := by
  simp only [execDrw, h, Bool.false_eq_true, if_false]

/-- FX65 with its bytes in memory. -/
theorem execLoadRegs_of_inRange {x : Nibble} (h : s.inRange (x.val + 1) = true) :
    execLoadRegs x s = .next (s.loadRegsFromI x).advance := by
  simp only [execLoadRegs, h, if_true]

/-- FX65 with its bytes not in memory. -/
theorem execLoadRegs_of_not_inRange {x : Nibble} (h : s.inRange (x.val + 1) = false) :
    execLoadRegs x s = .next
      (s.raiseFatal (.memReadOutOfRange (s.lastAddr (x.val + 1))) (some (encode (.loadRegs x)))) := by
  simp only [execLoadRegs, h, Bool.false_eq_true, if_false]

/-- The range check fails exactly when a byte is accessed and the last one is above 4095. -/
theorem State.inRange_false_iff (k : Nat) : s.inRange k = false ↔ k ≠ 0 ∧ 4096 < s.i.toNat + k := by
  rw [Bool.eq_false_iff, ne_eq, State.inRange_iff]
  omega

end Sys2Proof.Machine
end

