-- ==== Sys2Proof/Laws/PerInstr.lean ====
section
/-!
SUPPORT. Per-instruction families.  FitsRow: the opcode of every instruction matches that instruction's row of the opcode map
(spec/30_encoding.md R60), with every operand at every value.
-/

namespace Sys2Proof.Laws.FitsRow

/-- The encoding of the instruction matches its row of the opcode map. -/
def Statement (i : Instr) : Prop := i.row.matches (encode i) = true

theorem matches_of_toNat {mask bits op : Word} (h : (op &&& mask).toNat = bits.toNat) :
    (OpcodeRow.mk mask bits).matches op = true := by
  simpa [OpcodeRow.matches] using BitVec.eq_of_toNat_eq h

theorem fits_nnn {h : Nat} (hh : h < 16) (nnn : BitVec 12) (bits : Word) (hb : bits.toNat = h * 4096) :
    (OpcodeRow.mk 0xF000 bits).matches (encodeNNN h nnn) = true := by
  have := nnn.isLt
  refine matches_of_toNat ?_
  rw [and_F000_toNat, encodeNNN_toNat hh, hb]
  omega

theorem fits_xnn {h : Nat} (hh : h < 16) (x : Nibble) (nn : Byte) (bits : Word) (hb : bits.toNat = h * 4096) :
    (OpcodeRow.mk 0xF000 bits).matches (encodeXNN h x nn) = true := by
  have := nn.isLt
  have := x.isLt
  refine matches_of_toNat ?_
  rw [and_F000_toNat, encodeXNN_toNat hh, hb]
  omega

theorem fits_xyn {h : Nat} (hh : h < 16) (x y n : Nibble) (bits : Word) (hb : bits.toNat = h * 4096) :
    (OpcodeRow.mk 0xF000 bits).matches (encodeXYN h x y n) = true := by
  have := x.isLt
  have := y.isLt
  have := n.isLt
  refine matches_of_toNat ?_
  rw [and_F000_toNat, encodeXYN_toNat hh, hb]
  omega

theorem fits_xy {h : Nat} (hh : h < 16) (x y n : Nibble) (bits : Word) (hb : bits.toNat = h * 4096 + n.val) :
    (OpcodeRow.mk 0xF00F bits).matches (encodeXYN h x y n) = true := by
  have := x.isLt
  have := y.isLt
  have := n.isLt
  refine matches_of_toNat ?_
  rw [and_F00F_toNat, encodeXYN_toNat hh, hb]
  omega

theorem fits_x {h : Nat} (hh : h < 16) (x : Nibble) (nn : Byte) (bits : Word) (hb : bits.toNat = h * 4096 + nn.toNat) :
    (OpcodeRow.mk 0xF0FF bits).matches (encodeXNN h x nn) = true := by
  have := nn.isLt
  have := x.isLt
  refine matches_of_toNat ?_
  rw [and_F0FF_toNat, encodeXNN_toNat hh, hb]
  omega

theorem cls : Statement .cls := rfl
theorem ret : Statement .ret := rfl
theorem jp (nnn : BitVec 12) : Statement (.jp nnn) := fits_nnn (by omega) _ _ (by decide)
theorem call (nnn : BitVec 12) : Statement (.call nnn) := fits_nnn (by omega) _ _ (by decide)
theorem seImm (x : Nibble) (nn : Byte) : Statement (.seImm x nn) := fits_xnn (by omega) _ _ _ (by decide)
theorem sneImm (x : Nibble) (nn : Byte) : Statement (.sneImm x nn) := fits_xnn (by omega) _ _ _ (by decide)
theorem seReg (x y : Nibble) : Statement (.seReg x y) := fits_xy (by omega) _ _ _ _ (by simp)
theorem ldImm (x : Nibble) (nn : Byte) : Statement (.ldImm x nn) := fits_xnn (by omega) _ _ _ (by decide)
theorem addImm (x : Nibble) (nn : Byte) : Statement (.addImm x nn) := fits_xnn (by omega) _ _ _ (by decide)
theorem ldReg (x y : Nibble) : Statement (.ldReg x y) := fits_xy (by omega) _ _ _ _ (by simp)
theorem orReg (x y : Nibble) : Statement (.orReg x y) := fits_xy (by omega) _ _ _ _ (by simp)
theorem andReg (x y : Nibble) : Statement (.andReg x y) := fits_xy (by omega) _ _ _ _ (by simp)
theorem xorReg (x y : Nibble) : Statement (.xorReg x y) := fits_xy (by omega) _ _ _ _ (by simp)
theorem addReg (x y : Nibble) : Statement (.addReg x y) := fits_xy (by omega) _ _ _ _ (by simp)
theorem sub (x y : Nibble) : Statement (.sub x y) := fits_xy (by omega) _ _ _ _ (by simp)
theorem shr (x y : Nibble) : Statement (.shr x y) := fits_xy (by omega) _ _ _ _ (by simp)
theorem subn (x y : Nibble) : Statement (.subn x y) := fits_xy (by omega) _ _ _ _ (by simp)
theorem shl (x y : Nibble) : Statement (.shl x y) := fits_xy (by omega) _ _ _ _ (by simp)
theorem sneReg (x y : Nibble) : Statement (.sneReg x y) := fits_xy (by omega) _ _ _ _ (by simp)
theorem ldI (nnn : BitVec 12) : Statement (.ldI nnn) := fits_nnn (by omega) _ _ (by decide)
theorem jpV0 (nnn : BitVec 12) : Statement (.jpV0 nnn) := fits_nnn (by omega) _ _ (by decide)
theorem rnd (x : Nibble) (nn : Byte) : Statement (.rnd x nn) := fits_xnn (by omega) _ _ _ (by decide)
theorem drw (x y n : Nibble) : Statement (.drw x y n) := fits_xyn (by omega) _ _ _ _ (by decide)
theorem skp (x : Nibble) : Statement (.skp x) := fits_x (by omega) _ _ _ (by simp)
theorem sknp (x : Nibble) : Statement (.sknp x) := fits_x (by omega) _ _ _ (by simp)
theorem ldVxDt (x : Nibble) : Statement (.ldVxDt x) := fits_x (by omega) _ _ _ (by simp)
theorem ldVxKey (x : Nibble) : Statement (.ldVxKey x) := fits_x (by omega) _ _ _ (by simp)
theorem ldDtVx (x : Nibble) : Statement (.ldDtVx x) := fits_x (by omega) _ _ _ (by simp)
theorem ldStVx (x : Nibble) : Statement (.ldStVx x) := fits_x (by omega) _ _ _ (by simp)
theorem addI (x : Nibble) : Statement (.addI x) := fits_x (by omega) _ _ _ (by simp)
theorem ldFont (x : Nibble) : Statement (.ldFont x) := fits_x (by omega) _ _ _ (by simp)
theorem ldBcd (x : Nibble) : Statement (.ldBcd x) := fits_x (by omega) _ _ _ (by simp)
theorem storeRegs (x : Nibble) : Statement (.storeRegs x) := fits_x (by omega) _ _ _ (by simp)
theorem loadRegs (x : Nibble) : Statement (.loadRegs x) := fits_x (by omega) _ _ _ (by simp)

end Sys2Proof.Laws.FitsRow
end

