-- ==== Sys2Proof/Laws/Sprite.lean ====
section
/-!
SUPPORT. What an XOR-draw does to the frame and to the collision report (drawBit, drawRow, drawRows, State.spriteDrawn):
pixels are flipped exactly where the sprite has a set bit, and a collision is reported exactly when one of them was 1.
-/

namespace Sys2Proof.Machine

variable {px : Fin 64} {py : Fin 32}

/-- The pixel a bit lands on. -/
def lands (x y : Nat) (px : Fin 64) (py : Fin 32) : Bool := px.val == x % 64 && py.val == y % 32

theorem lands_iff {x y : Nat} : lands x y px py = true ↔ px = Fin.ofNat 64 x ∧ py = Fin.ofNat 32 y := by
  simp [lands, Fin.ext_iff, Fin.ofNat]

theorem drawBit_pixel (x y : Nat) (bit : Bool) (acc : Display × Bool) :
    (drawBit x y bit acc).1.pixel px py = (acc.1.pixel px py ^^ (bit && lands x y px py)) := by
  cases bit with
  | false => simp [drawBit]
  | true =>
    simp only [drawBit, if_true, Display.setPixel_pixel, Bool.true_and]
    by_cases h : lands x y px py = true
    · rw [if_pos (lands_iff.1 h), h]
      obtain ⟨rfl, rfl⟩ := lands_iff.1 h
      rw [Bool.xor_true]
    · rw [if_neg fun h' => h (lands_iff.2 h')]
      simp [Bool.eq_false_iff.2 h]

theorem drawBit_collision (x y : Nat) (bit : Bool) (acc : Display × Bool) :
    (drawBit x y bit acc).2 = (acc.2 || (bit && acc.1.pixel (Fin.ofNat 64 x) (Fin.ofNat 32 y))) := by
  cases bit <;> simp [drawBit]

/-- The first `k` columns of a sprite row. -/
def colsCover (x y : Nat) (b : Byte) (k : Nat) (px : Fin 64) (py : Fin 32) : Bool :=
  (List.range k).any fun c => b.getLsbD (7 - c) && lands (x + c) y px py

theorem colsCover_succ (x y : Nat) (b : Byte) (k : Nat) :
    colsCover x y b (k + 1) px py = (colsCover x y b k px py || (b.getLsbD (7 - k) && lands (x + k) y px py)) := by
  simp [colsCover, List.range_succ]

/-- Two columns of one row land on different pixels. -/
theorem colsCover_disjoint {x y k : Nat} {b : Byte} (hk : k < 64) (h : lands (x + k) y px py = true) :
    colsCover x y b k px py = false := by
  simp only [colsCover, List.any_eq_false, List.mem_range, lands, Bool.and_eq_true, beq_iff_eq] at h ⊢
  omega

/-- Draw the first `k` columns of a row. -/
def drawCols (x y : Nat) (b : Byte) (k : Nat) (acc : Display × Bool) : Display × Bool :=
  (List.range k).foldl (fun acc c => drawBit (x + c) y (b.getLsbD (7 - c)) acc) acc

theorem drawCols_succ (x y : Nat) (b : Byte) (k : Nat) (acc : Display × Bool) :
    drawCols x y b (k + 1) acc = drawBit (x + k) y (b.getLsbD (7 - k)) (drawCols x y b k acc) := by
  simp [drawCols, List.range_succ]

theorem drawCols_pixel (x y : Nat) (b : Byte) (k : Nat) (hk : k ≤ 64) (acc : Display × Bool) :
    (drawCols x y b k acc).1.pixel px py = (acc.1.pixel px py ^^ colsCover x y b k px py) := by
  induction k with
  | zero => simp [drawCols, colsCover]
  | succ k ih =>
    rw [drawCols_succ, drawBit_pixel, ih (by omega), colsCover_succ]
    by_cases h : lands (x + k) y px py = true
    · simp [h, colsCover_disjoint (b := b) (by omega) h]
    · simp [Bool.eq_false_iff.2 h]

theorem drawCols_collision (x y : Nat) (b : Byte) (k : Nat) (hk : k ≤ 64) (acc : Display × Bool) :
    (drawCols x y b k acc).2 = true ↔
      acc.2 = true ∨ ∃ px py, colsCover x y b k px py = true ∧ acc.1.pixel px py = true := by
  induction k with
  | zero => simp [drawCols, colsCover]
  | succ k ih =>
    have hself : lands (x + k) y (Fin.ofNat 64 (x + k)) (Fin.ofNat 32 y) = true := lands_iff.2 ⟨rfl, rfl⟩
    rw [drawCols_succ, drawBit_collision, drawCols_pixel _ _ _ _ (by omega), colsCover_disjoint (by omega) hself]
    simp only [Bool.xor_false, Bool.or_eq_true, ih (by omega), Bool.and_eq_true, colsCover_succ]
    constructor
    · rintro ((h | ⟨px, py, h1, h2⟩) | ⟨h1, h2⟩)
      · exact .inl h
      · exact .inr ⟨px, py, .inl h1, h2⟩
      · exact .inr ⟨_, _, .inr ⟨h1, hself⟩, h2⟩
    · rintro (h | ⟨px, py, h1 | ⟨h1, h3⟩, h2⟩)
      · exact .inl (.inl h)
      · exact .inl (.inr ⟨px, py, h1, h2⟩)
      · obtain ⟨rfl, rfl⟩ := lands_iff.1 h3
        exact .inr ⟨h1, h2⟩

theorem drawRow_eq_drawCols (x y : Nat) (b : Byte) (acc : Display × Bool) : drawRow x y b acc = drawCols x y b 8 acc := rfl

/-- The rows of a sprite from row `y` on. -/
def rowsCover (x : Nat) : Nat → List Byte → Fin 64 → Fin 32 → Bool
  | _, [], _, _ => false
  | y, b :: bs, px, py => colsCover x y b 8 px py || rowsCover x (y + 1) bs px py

theorem rowsCover_row {x y : Nat} {bs : List Byte} (h : rowsCover x y bs px py = true) :
    ∃ r < bs.length, py.val = (y + r) % 32 := by
  induction bs generalizing y with
  | nil => simp [rowsCover] at h
  | cons b bs ih =>
    simp only [rowsCover, Bool.or_eq_true] at h
    rcases h with h | h
    · simp only [colsCover, List.any_eq_true, lands, Bool.and_eq_true, beq_iff_eq] at h
      obtain ⟨c, -, -, -, h⟩ := h
      exact ⟨0, by simp, by simpa using h⟩
    · obtain ⟨r, hr, h⟩ := ih h
      exact ⟨r + 1, by simpa using hr, by rw [h]; congr 1; omega⟩

/-- The rows after the first land on other pixels than the first. -/
theorem rowsCover_disjoint {x y : Nat} {b : Byte} {bs : List Byte} (hl : bs.length < 32)
    (h : colsCover x y b 8 px py = true) : rowsCover x (y + 1) bs px py = false := by
  rw [Bool.eq_false_iff]
  intro h'
  obtain ⟨r, hr, h2⟩ := rowsCover_row h'
  simp only [colsCover, List.any_eq_true, lands, Bool.and_eq_true, beq_iff_eq] at h
  obtain ⟨c, -, -, -, h⟩ := h
  omega

/-- Drawing flips exactly the covered pixels. -/
theorem drawRows_pixel (x y : Nat) (bs : List Byte) (hl : bs.length ≤ 32) (acc : Display × Bool) :
    (drawRows x y bs acc).1.pixel px py = (acc.1.pixel px py ^^ rowsCover x y bs px py) := by
  induction bs generalizing y acc with
  | nil => simp [drawRows, rowsCover]
  | cons b bs ih =>
    simp only [List.length_cons] at hl
    rw [drawRows, ih _ (by omega), drawRow_eq_drawCols, drawCols_pixel _ _ _ _ (by omega), rowsCover]
    by_cases h : colsCover x y b 8 px py = true
    · have hr := rowsCover_disjoint (bs := bs) (by omega) h
      simp [h, hr]
    · simp [Bool.eq_false_iff.2 h]

/-- A collision is reported exactly when a covered pixel was 1. -/
theorem drawRows_collision (x y : Nat) (bs : List Byte) (hl : bs.length ≤ 32) (acc : Display × Bool) :
    (drawRows x y bs acc).2 = true ↔
      acc.2 = true ∨ ∃ px py, rowsCover x y bs px py = true ∧ acc.1.pixel px py = true := by
  induction bs generalizing y acc with
  | nil => simp [drawRows, rowsCover]
  | cons b bs ih =>
    simp only [List.length_cons] at hl
    rw [drawRows, ih _ (by omega), drawRow_eq_drawCols, drawCols_collision _ _ _ _ (by omega)]
    simp only [rowsCover, Bool.or_eq_true]
    constructor
    · rintro ((h | ⟨px, py, h1, h2⟩) | ⟨px, py, h1, h2⟩)
      · exact .inl h
      · exact .inr ⟨px, py, .inl h1, h2⟩
      · by_cases h : colsCover x y b 8 px py = true
        · rw [rowsCover_disjoint (bs := bs) (by omega) h] at h1
          exact absurd h1 Bool.false_ne_true
        · rw [drawCols_pixel _ _ _ _ (by omega), Bool.eq_false_iff.2 h, Bool.xor_false] at h2
          exact .inr ⟨px, py, .inr h1, h2⟩
    · rintro (h | ⟨px, py, h1 | h1, h2⟩)
      · exact .inl (.inl h)
      · exact .inl (.inr ⟨px, py, h1, h2⟩)
      · by_cases h : colsCover x y b 8 px py = true
        · exact .inl (.inr ⟨px, py, h, h2⟩)
        · refine .inr ⟨px, py, h1, ?_⟩
          rw [drawCols_pixel _ _ _ _ (by omega), Bool.eq_false_iff.2 h, Bool.xor_false, h2]

/-! ### The sprite of DXYN -/

/-- The rows of a sprite whose bytes are given by a function. -/
theorem rowsCover_map (x y : Nat) (f : Nat → Byte) (k : Nat) :
    rowsCover x y ((List.range k).map f) px py =
      (List.range k).any fun r => colsCover x (y + r) (f r) 8 px py := by
  induction k generalizing y f with
  | zero => rfl
  | succ k ih =>
    rw [List.range_succ_eq_map, List.map_cons, List.map_map, rowsCover, List.any_cons, List.any_map, ih]
    simp only [Nat.add_zero, Function.comp_def, Nat.add_assoc, Nat.add_comm 1]

theorem spriteCovers_eq_rowsCover (s : State) (x y n : Nibble) :
    s.spriteCovers x y n px py = rowsCover (s.reg x).toNat (s.reg y).toNat (s.readBytes s.i.toNat n.val) px py := by
  rw [State.readBytes, rowsCover_map]
  rfl

/-- DXYN flips exactly the pixels its sprite covers. -/
theorem State.spriteDrawn_pixel (s : State) (x y n : Nibble) :
    (s.spriteDrawn x y n).1.pixel px py = (s.disp.pixel px py ^^ s.spriteCovers x y n px py) := by
  have hl : (s.readBytes s.i.toNat n.val).length ≤ 32 := by simp; omega
  rw [State.spriteDrawn, drawRows_pixel _ _ _ hl, spriteCovers_eq_rowsCover]

/-- DXYN reports a collision exactly when its sprite covers a pixel that was 1. -/
theorem State.spriteDrawn_collision (s : State) (x y n : Nibble) :
    (s.spriteDrawn x y n).2 = true ↔ ∃ px py, s.spriteCovers x y n px py = true ∧ s.disp.pixel px py = true := by
  have hl : (s.readBytes s.i.toNat n.val).length ≤ 32 := by simp; omega
  rw [State.spriteDrawn, drawRows_collision _ _ _ hl]
  simp [spriteCovers_eq_rowsCover]

end Sys2Proof.Machine
end

