-- ==== Sys2Proof/Laws/Step.lean ====
section
/-!
SUPPORT. Everything an instruction can do, said once: it raises the one fatal error R120 lists for it, or it has its effect (`exec_cases`).
-/

namespace Sys2Proof.Machine

/-- The effect of an instruction that raises no fatal error, from the state `s` to `u`. -/
def Effect (i : Instr) (s u : State) : Prop :=
  match i with
  | .cls => u = (s.showFrame Display.blank).advance
  | .ret => ∃ h : 0 < s.sp.val,
      u = { s with sp := ⟨s.sp.val - 1, by omega⟩, pc := s.stack[s.sp.val - 1]'(by omega) }
  | .jp nnn => u = s.jump (zext16 nnn)
  | .call nnn => ∃ h : s.sp.val < 16,
      u = { s with stack := s.stack.set s.sp.val (s.pc + 2), sp := ⟨s.sp.val + 1, by omega⟩, pc := zext16 nnn }
  | .seImm x nn => u = s.skipIf (s.reg x == nn)
  | .sneImm x nn => u = s.skipIf (s.reg x != nn)
  | .seReg x y => u = s.skipIf (s.reg x == s.reg y)
  | .ldImm x nn => u = (s.setReg x nn).advance
  | .addImm x nn => u = (s.setReg x (addByte (s.reg x) nn)).advance
  | .ldReg x y => u = (s.setReg x (s.reg y)).advance
  | .orReg x y => u = (s.setReg x (s.reg x ||| s.reg y)).advance
  | .andReg x y => u = (s.setReg x (s.reg x &&& s.reg y)).advance
  | .xorReg x y => u = (s.setReg x (s.reg x ^^^ s.reg y)).advance
  | .addReg x y => u = (s.writeFlagged x (addByte (s.reg x) (s.reg y)) (carryFlag (s.reg x) (s.reg y))).advance
  | .sub x y => u = (s.writeFlagged x (subByte (s.reg x) (s.reg y)) (greaterFlag (s.reg x) (s.reg y))).advance
  | .shr x _ => u = (s.writeFlagged x (shrByte (s.reg x)) (lowBitFlag (s.reg x))).advance
  | .subn x y => u = (s.writeFlagged x (subByte (s.reg y) (s.reg x)) (greaterFlag (s.reg y) (s.reg x))).advance
  | .shl x _ => u = (s.writeFlagged x (shlByte (s.reg x)) (highBitFlag (s.reg x))).advance
  | .sneReg x y => u = s.skipIf (s.reg x != s.reg y)
  | .ldI nnn => u = (s.setI (zext16 nnn)).advance
  | .jpV0 nnn => u = s.jump (s.offsetTarget nnn)
  | .rnd x nn => u = (s.setReg x (s.rndByte &&& nn)).advance
  | .drw x y n => s.inRange n.val = true ∧
      u = ((s.setReg vf (flagByte (s.spriteDrawn x y n).2)).showFrame (s.spriteDrawn x y n).1).advance
  | .skp x => ∃ b, s.keyFor (s.reg x) = some b ∧ u = s.skipIf b
  | .sknp x => ∃ b, s.keyFor (s.reg x) = some b ∧ u = s.skipIf (!b)
  | .ldVxDt x => u = (s.setReg x s.dt).advance
  | .ldVxKey x => (∃ k, s.firstKey = some k ∧ u = ((s.setReg x (BitVec.ofNat 8 k.val)).advance).setStatus .running) ∨
      s.firstKey = none ∧ u = s.setStatus .waitingKey
  | .ldDtVx x => u = (s.setDt (s.reg x)).advance
  | .ldStVx x => u = (s.setSt (s.reg x)).advance
  | .addI x => u = (s.setI (s.i + zext16 (s.reg x))).advance
  | .ldFont x => u = (s.setI (s.glyphAddr x)).advance
  | .ldBcd x => s.inRange 3 = true ∧ u = (s.writeBytes s.i.toNat (bcdDigits (s.reg x))).advance
  | .storeRegs x => s.inRange (x.val + 1) = true ∧ u = (s.writeBytes s.i.toNat (s.regsBytes x)).advance
  | .loadRegs x => s.inRange (x.val + 1) = true ∧ u = (s.loadRegsFromI x).advance

/-- A range error's address is above 4095. -/
theorem State.lastAddr_of_not_inRange {s : State} {k : Nat} (h : s.inRange k = false) : 4095 < s.lastAddr k := by
  have := (s.inRange_false_iff k).1 h
  unfold State.lastAddr
  omega

/-- The key test fails only for a number above 15 under KEY_OOR_POLICY = fault. -/
theorem State.keyFor_eq_none {s : State} {k : Byte} (h : s.keyFor k = none) :
    15 < k.toNat ∧ s.cfg.keyOorPolicy = .fault := by
  by_cases hk : 15 < k.toNat
  · rw [State.keyFor_of_ge s hk] at h
    refine ⟨hk, ?_⟩
    cases hc : s.cfg.keyOorPolicy <;> simp_all
  · rw [State.keyFor_of_lt s (by omega)] at h
    cases h

/-- Everything an instruction can do: raise the fatal error R120 lists for it, or have its effect. -/
theorem exec_cases {i : Instr} {s u : State} (h : exec i s = .next u) :
    (∃ c, u = s.raiseFatal c (some (encode i)) ∧ c.raisedBy i = true ∧ c.holdsIn s ∧ fatalCondition i s = some c) ∨ Effect i s u := by
  cases i with
  | ret =>
    by_cases h0 : s.sp.val = 0
    · rw [exec, execRet_empty s h0] at h
      cases h
      exact .inl ⟨_, rfl, rfl, Fin.ext h0, if_pos (Fin.ext h0)⟩
    · rw [exec, execRet_of_pos s (by omega)] at h
      cases h
      exact .inr ⟨by omega, rfl⟩
  | call nnn =>
    by_cases h0 : s.sp.val = 16
    · rw [exec, execCall_full s nnn h0] at h
      cases h
      exact .inl ⟨_, rfl, rfl, Fin.ext h0, if_pos (Fin.ext h0)⟩
    · rw [exec, execCall_of_lt s nnn (by omega)] at h
      cases h
      exact .inr ⟨by omega, rfl⟩
  | drw x y n =>
    cases h0 : s.inRange n.val
    · rw [exec, execDrw_of_not_inRange s h0] at h
      cases h
      exact .inl ⟨_, rfl, rfl, State.lastAddr_of_not_inRange h0, if_pos (by have := (s.inRange_false_iff _).1 h0; omega)⟩
    · rw [exec, execDrw_of_inRange s h0] at h
      cases h
      exact .inr ⟨h0, rfl⟩
  | loadRegs x =>
    cases h0 : s.inRange (x.val + 1)
    · rw [exec, execLoadRegs_of_not_inRange s h0] at h
      cases h
      exact .inl ⟨_, rfl, rfl, State.lastAddr_of_not_inRange h0, if_pos (by have := State.lastAddr_of_not_inRange h0; simpa [State.lastAddr] using this)⟩
    · rw [exec, execLoadRegs_of_inRange s h0] at h
      cases h
      exact .inr ⟨h0, rfl⟩
  | storeRegs x =>
    cases h0 : s.inRange (s.regsBytes x).length
    · rw [exec, execStoreRegs, State.storeAtI_of_not_inRange s _ _ h0] at h
      cases h
      exact .inl ⟨_, rfl, rfl, State.lastAddr_of_not_inRange h0, by
        have := State.lastAddr_of_not_inRange h0
        simp only [State.lastAddr, State.length_regsBytes] at this ⊢
        exact if_pos this⟩
    · rw [exec, execStoreRegs, State.storeAtI_of_inRange s _ _ h0] at h
      cases h
      exact .inr ⟨by simpa using h0, rfl⟩
  | ldBcd x =>
    cases h0 : s.inRange (bcdDigits (s.reg x)).length
    · rw [exec, execLdBcd, State.storeAtI_of_not_inRange s _ _ h0] at h
      cases h
      exact .inl ⟨_, rfl, rfl, State.lastAddr_of_not_inRange h0, if_pos (by have := State.lastAddr_of_not_inRange h0; simpa [State.lastAddr] using this)⟩
    · rw [exec, execLdBcd, State.storeAtI_of_inRange s _ _ h0] at h
      cases h
      exact .inr ⟨h0, rfl⟩
  | skp x =>
    cases h0 : s.keyFor (s.reg x)
    · rw [exec, execSkp_of_none s h0] at h
      cases h
      exact .inl ⟨_, rfl, rfl, State.keyFor_eq_none h0, if_pos (State.keyFor_eq_none h0)⟩
    · rw [exec, execSkp_of_some s h0] at h
      cases h
      exact .inr ⟨_, h0, rfl⟩
  | sknp x =>
    cases h0 : s.keyFor (s.reg x)
    · rw [exec, execSknp_of_none s h0] at h
      cases h
      exact .inl ⟨_, rfl, rfl, State.keyFor_eq_none h0, if_pos (State.keyFor_eq_none h0)⟩
    · rw [exec, execSknp_of_some s h0] at h
      cases h
      exact .inr ⟨_, h0, rfl⟩
  | ldVxKey x =>
    cases h0 : s.firstKey
    · rw [exec, execLdVxKey_of_none s h0] at h
      cases h
      exact .inr (.inr ⟨h0, rfl⟩)
    · rw [exec, execLdVxKey_of_some s h0] at h
      cases h
      exact .inr (.inl ⟨_, h0, rfl⟩)
  | _ => exact .inr (Host.Outcome.next.inj h).symm

/-- An instruction that has its effect met no fatal condition. -/
theorem Effect.fatalCondition_eq_none {i : Instr} {s u : State} (h : Effect i s u) : fatalCondition i s = none := by
  cases i with
  | ret =>
    obtain ⟨h, -⟩ := h
    exact if_neg fun h' => by simp [h'] at h
  | call nnn =>
    obtain ⟨h, -⟩ := h
    exact if_neg fun h' => by simp [h'] at h
  | drw x y n =>
    have := (s.inRange_iff _).1 h.1
    exact if_neg (by omega)
  | loadRegs x =>
    have := (s.inRange_iff _).1 h.1
    exact if_neg (by omega)
  | storeRegs x =>
    have := (s.inRange_iff _).1 h.1
    exact if_neg (by omega)
  | ldBcd x =>
    have := (s.inRange_iff _).1 h.1
    exact if_neg (by omega)
  | skp x =>
    obtain ⟨b, hb, -⟩ := h
    refine if_neg fun ⟨h1, h2⟩ => ?_
    simp [State.keyFor_of_ge s h1, h2] at hb
  | sknp x =>
    obtain ⟨b, hb, -⟩ := h
    refine if_neg fun ⟨h1, h2⟩ => ?_
    simp [State.keyFor_of_ge s h1, h2] at hb
  | _ => rfl

end Sys2Proof.Machine
end

