-- ==== Sys2Proof/Tests/Slice0.lean ====
section
/-!
SUPPORT. Tests of the model, and for every statement of Certificates/Slice0/Obligations.lean that has hypotheses a witness of each of its
clauses.  The words of the decode tests are written out from the opcode map of spec/30_encoding.md R60, and the expected results of the step
tests are the vectors of spec/95_test_vectors.md (their identifiers stand in the comments).
-/

namespace Sys2Proof.Tests

open Sys2Proof.Machine

/-! ### Helpers -/

/-- The state after one step. -/
def after (s : State) : State :=
  match step s with
  | .next t => t
  | .fault _ => s
  | .refused _ => s

/-- The state after one instruction. -/
def ran (i : Instr) (s : State) : State :=
  match exec i s with
  | .next t => t
  | .fault _ => s
  | .refused _ => s

/-- The reset state with register `x` holding `b`. -/
def one (x : Nibble) (b : Byte) : State := State.reset.setReg x b

/-- The reset state with registers `x` and `y` holding `a` and `b`. -/
def two (x : Nibble) (a : Byte) (y : Nibble) (b : Byte) : State := (one x a).setReg y b

/-- The state after one step of the opcode `op` placed at PC of `s`. -/
def go (s : State) (op : Nat) : State := after (s.withFetchWord 16 op)

/-- The code of the fatal error in the status, 0 when there is none. -/
def fatalCode (s : State) : Nat :=
  match s.status with
  | .halted record => record.cause.code
  | .running => 0
  | .waitingKey => 0

/-! ### Decoding: one word for each row of R60, written out from its pattern -/

theorem test_decode_00E0 : decodeTableWord 16 0x00E0 = some (.cls) ∧ encode (.cls) = 0x00E0 := by decide
theorem test_decode_00EE : decodeTableWord 16 0x00EE = some (.ret) ∧ encode (.ret) = 0x00EE := by decide
theorem test_decode_1ABC : decodeTableWord 16 0x1ABC = some (.jp 0xABC) ∧ encode (.jp 0xABC) = 0x1ABC := by decide
theorem test_decode_2FED : decodeTableWord 16 0x2FED = some (.call 0xFED) ∧ encode (.call 0xFED) = 0x2FED := by decide
theorem test_decode_3A7E : decodeTableWord 16 0x3A7E = some (.seImm 0xA 0x7E) ∧ encode (.seImm 0xA 0x7E) = 0x3A7E := by decide
theorem test_decode_4B01 : decodeTableWord 16 0x4B01 = some (.sneImm 0xB 0x01) ∧ encode (.sneImm 0xB 0x01) = 0x4B01 := by decide
theorem test_decode_5C30 : decodeTableWord 16 0x5C30 = some (.seReg 0xC 3) ∧ encode (.seReg 0xC 3) = 0x5C30 := by decide
theorem test_decode_6A42 : decodeTableWord 16 0x6A42 = some (.ldImm 0xA 0x42) ∧ encode (.ldImm 0xA 0x42) = 0x6A42 := by decide
theorem test_decode_7FFF : decodeTableWord 16 0x7FFF = some (.addImm 0xF 0xFF) ∧ encode (.addImm 0xF 0xFF) = 0x7FFF := by decide
theorem test_decode_8120 : decodeTableWord 16 0x8120 = some (.ldReg 1 2) ∧ encode (.ldReg 1 2) = 0x8120 := by decide
theorem test_decode_8341 : decodeTableWord 16 0x8341 = some (.orReg 3 4) ∧ encode (.orReg 3 4) = 0x8341 := by decide
theorem test_decode_8562 : decodeTableWord 16 0x8562 = some (.andReg 5 6) ∧ encode (.andReg 5 6) = 0x8562 := by decide
theorem test_decode_8783 : decodeTableWord 16 0x8783 = some (.xorReg 7 8) ∧ encode (.xorReg 7 8) = 0x8783 := by decide
theorem test_decode_89A4 : decodeTableWord 16 0x89A4 = some (.addReg 9 0xA) ∧ encode (.addReg 9 0xA) = 0x89A4 := by decide
theorem test_decode_8BC5 : decodeTableWord 16 0x8BC5 = some (.sub 0xB 0xC) ∧ encode (.sub 0xB 0xC) = 0x8BC5 := by decide
theorem test_decode_8DE6 : decodeTableWord 16 0x8DE6 = some (.shr 0xD 0xE) ∧ encode (.shr 0xD 0xE) = 0x8DE6 := by decide
theorem test_decode_8F07 : decodeTableWord 16 0x8F07 = some (.subn 0xF 0) ∧ encode (.subn 0xF 0) = 0x8F07 := by decide
theorem test_decode_812E : decodeTableWord 16 0x812E = some (.shl 1 2) ∧ encode (.shl 1 2) = 0x812E := by decide
theorem test_decode_9AB0 : decodeTableWord 16 0x9AB0 = some (.sneReg 0xA 0xB) ∧ encode (.sneReg 0xA 0xB) = 0x9AB0 := by decide
theorem test_decode_A2F0 : decodeTableWord 16 0xA2F0 = some (.ldI 0x2F0) ∧ encode (.ldI 0x2F0) = 0xA2F0 := by decide
theorem test_decode_BFFF : decodeTableWord 16 0xBFFF = some (.jpV0 0xFFF) ∧ encode (.jpV0 0xFFF) = 0xBFFF := by decide
theorem test_decode_C30F : decodeTableWord 16 0xC30F = some (.rnd 3 0x0F) ∧ encode (.rnd 3 0x0F) = 0xC30F := by decide
theorem test_decode_D12F : decodeTableWord 16 0xD12F = some (.drw 1 2 0xF) ∧ encode (.drw 1 2 0xF) = 0xD12F := by decide
theorem test_decode_E59E : decodeTableWord 16 0xE59E = some (.skp 5) ∧ encode (.skp 5) = 0xE59E := by decide
theorem test_decode_E6A1 : decodeTableWord 16 0xE6A1 = some (.sknp 6) ∧ encode (.sknp 6) = 0xE6A1 := by decide
theorem test_decode_F707 : decodeTableWord 16 0xF707 = some (.ldVxDt 7) ∧ encode (.ldVxDt 7) = 0xF707 := by decide
theorem test_decode_F80A : decodeTableWord 16 0xF80A = some (.ldVxKey 8) ∧ encode (.ldVxKey 8) = 0xF80A := by decide
theorem test_decode_F915 : decodeTableWord 16 0xF915 = some (.ldDtVx 9) ∧ encode (.ldDtVx 9) = 0xF915 := by decide
theorem test_decode_FA18 : decodeTableWord 16 0xFA18 = some (.ldStVx 0xA) ∧ encode (.ldStVx 0xA) = 0xFA18 := by decide
theorem test_decode_FB1E : decodeTableWord 16 0xFB1E = some (.addI 0xB) ∧ encode (.addI 0xB) = 0xFB1E := by decide
theorem test_decode_FC29 : decodeTableWord 16 0xFC29 = some (.ldFont 0xC) ∧ encode (.ldFont 0xC) = 0xFC29 := by decide
theorem test_decode_FD33 : decodeTableWord 16 0xFD33 = some (.ldBcd 0xD) ∧ encode (.ldBcd 0xD) = 0xFD33 := by decide
theorem test_decode_FE55 : decodeTableWord 16 0xFE55 = some (.storeRegs 0xE) ∧ encode (.storeRegs 0xE) = 0xFE55 := by decide
theorem test_decode_FF65 : decodeTableWord 16 0xFF65 = some (.loadRegs 0xF) ∧ encode (.loadRegs 0xF) = 0xFF65 := by decide

/-! ### Well-formed words: an ill-formed word of each family is refused (R61; vectors V-E5 to V-E12) -/

theorem test_ill_formed_family0_zero : wellFormedWord 0x0000 = false ∧ decode 0x0000 = none := by decide
theorem test_ill_formed_family0_middle_nibble : wellFormedWord 0x01E0 = false ∧ decode 0x01E0 = none := by decide
theorem test_ill_formed_family0_low : wellFormedWord 0x00EF = false ∧ decode 0x00EF = none := by decide
theorem test_ill_formed_family5 : wellFormedWord 0x5011 = false ∧ decode 0x5011 = none := by decide
theorem test_ill_formed_family8 : wellFormedWord 0x8018 = false ∧ decode 0x8018 = none := by decide
theorem test_ill_formed_family8_F : wellFormedWord 0x801F = false ∧ decode 0x801F = none := by decide
theorem test_ill_formed_family9 : wellFormedWord 0x9011 = false ∧ decode 0x9011 = none := by decide
theorem test_ill_formed_familyE : wellFormedWord 0xE09F = false ∧ decode 0xE09F = none := by decide
theorem test_ill_formed_familyF : wellFormedWord 0xF000 = false ∧ decode 0xF000 = none := by decide

theorem test_well_formed_words : wellFormedWord 0x00E0 = true ∧ wellFormedWord 0x801E = true ∧ wellFormedWord 0xFF65 = true := by decide

theorem test_short_bytes_refused : decodeBytes [0x12] = none ∧ decodeBytes [] = none := by decide

/-- Vectors L-1 and L-4: an image longer than 3584 bytes is refused, one of odd length is accepted. -/
theorem test_rom_too_large : State.reset.loadRom (List.replicate 3585 0xAA) = .error .romTooLarge := by
  rw [State.loadRom, if_neg]
  simp only [romFits, List.length_replicate]
  decide

theorem test_rom_odd : (match State.reset.loadRom [0x60, 0x05, 0x61] with
    | .ok t => t.readByte 0x200 == 0x60 && t.readByte 0x202 == 0x61 && t.readByte 0x203 == 0
    | .error _ => false) = true := by decide

/-! ### The engine (spec/95_test_vectors.md section 2.1) -/

/-- V-E1 and V-E2: the fetch limit; the timers do not tick. -/
theorem test_fetch_limit :
    fatalCode (after { State.reset with pc := 0xFFE }) = 1 ∧
      (after { State.reset with pc := 0xFFF, dt := 5 }).dt = 5 := by decide

/-- V-E3: a fetch at 4093 is legal. -/
theorem test_fetch_4093 :
    (go { State.reset with pc := 0xFFD } 0x6011).reg 0 = 0x11 ∧ (go { State.reset with pc := 0xFFD } 0x6011).pc = 0xFFF := by decide

/-- V-E4: an unknown opcode is reported and passed over, and the timers tick. -/
theorem test_unknown :
    (go { State.reset with dt := 3, st := 1 } 0xFFFF).reports = [{ pc := 0x200, op := 0xFFFF }] ∧
      (go { State.reset with dt := 3, st := 1 } 0xFFFF).pc = 0x202 ∧
      (go { State.reset with dt := 3, st := 1 } 0xFFFF).dt = 2 ∧ (go { State.reset with dt := 3, st := 1 } 0xFFFF).st = 0 := by decide

/-- V-E13: a halted machine does nothing (here halted by 00EE on an empty stack). -/
theorem test_halted :
    (after (go { State.reset with dt := 4 } 0x00EE)).dt = 4 ∧ (after (go { State.reset with dt := 4 } 0x00EE)).pc = 0x200 ∧
      fatalCode (after (go { State.reset with dt := 4 } 0x00EE)) = 3 := by decide

/-- The bytes of `withFetchWord` lie high byte first (R46). -/
theorem test_withFetchWord :
    (State.reset.withFetchWord 16 0x1234).readByte 0x200 = 0x12 ∧ (State.reset.withFetchWord 16 0x1234).readByte 0x201 = 0x34 := by decide

/-! ### Display (section 2.2) -/

/-- V-D1 and V-D2. -/
theorem test_cls :
    (go { State.reset with disp := Display.blank.setPixel 63 31 true } 0x00E0).disp.pixel 63 31 = false ∧
      (go State.reset 0x00E0).drawPending = true ∧ (go State.reset 0x00E0).pc = 0x202 := by decide

/-- V-D3: horizontal wrap. -/
theorem test_drw_wraps :
    let t := go (((two 0 0x3C 1 0x00).writeByte 0x300 0xFF).setI 0x300) 0xD011
    t.disp.pixel 59 0 = false ∧ t.disp.pixel 60 0 = true ∧ t.disp.pixel 63 0 = true ∧ t.disp.pixel 3 0 = true ∧
      t.disp.pixel 4 0 = false ∧ t.disp.pixel 0 1 = false ∧ t.reg vf = 0 ∧ t.drawPending = true := by decide

/-- V-D12: the row comes from VF before VF is cleared, and the collision is reported. -/
theorem test_drw_collision :
    let t := go { ((two 15 0x07 2 0x09).writeByte 0x300 0x80).setI 0x300 with disp := Display.blank.setPixel 9 7 true } 0xD2F1
    t.disp.pixel 9 7 = false ∧ t.reg vf = 1 := by decide

/-! ### Control transfer and skips (section 2.3) -/

/-- V-C2 and V-C3. -/
theorem test_ret :
    (go { State.reset with pc := 0x300, sp := 1, stack := State.reset.stack.set 0 0x202 } 0x00EE).pc = 0x202 ∧
      (go State.reset 0x00EE).pc = 0x200 := by decide

/-- V-C9: an odd target. -/
theorem test_jp : (go State.reset 0x1203).pc = 0x203 := by decide

/-- V-C1. -/
theorem test_call :
    (go State.reset 0x2300).pc = 0x300 ∧ (go State.reset 0x2300).sp = 1 ∧ (go State.reset 0x2300).stack[0] = 0x202 := by decide

/-- V-C4 and V-C5: the 16th nested call succeeds, the 17th faults. -/
theorem test_call_depth :
    (go { State.reset with sp := 15 } 0x2400).stack[15] = 0x202 ∧ (go { State.reset with sp := 15 } 0x2400).sp = 16 ∧
      fatalCode (go { State.reset with sp := 16 } 0x2400) = 2 ∧ (go { State.reset with sp := 16 } 0x2400).pc = 0x200 := by decide

/-- V-C10 and V-C11. -/
theorem test_seImm :
    (go (one 2 0x10) 0x3210).pc = 0x204 ∧ (go (one 2 0x10) 0x3211).pc = 0x202 := by decide

/-- V-C12 and V-C13. -/
theorem test_sneImm :
    (go (one 2 0x10) 0x4211).pc = 0x204 ∧ (go (one 2 0x10) 0x4210).pc = 0x202 := by decide

/-- V-C14 and V-C15. -/
theorem test_seReg :
    (go (two 0 5 1 5) 0x5010).pc = 0x204 ∧ (go (two 0 5 1 6) 0x5010).pc = 0x202 := by decide

/-- V-C17 and V-C18. -/
theorem test_sneReg :
    (go (two 0 5 1 6) 0x9010).pc = 0x204 ∧ (go (one 3 9) 0x9330).pc = 0x202 := by decide

/-- V-C20 and V-C21. -/
theorem test_jpV0 :
    (go (one 0 0x04) 0xB300).pc = 0x304 ∧ (go (one 0 0xFF) 0xBFFF).pc = 0x10FE := by decide

/-! ### Register arithmetic and logic (section 2.4) -/

/-- V-A1. -/
theorem test_ldImm :
    (go State.reset 0x6A42).reg 0xA = 0x42 ∧ (go State.reset 0x6A42).pc = 0x202 := by decide

/-- V-A4. -/
theorem test_addImm :
    (go (two 3 0xFF 15 7) 0x7301).reg 3 = 0 ∧ (go (two 3 0xFF 15 7) 0x7301).reg vf = 7 := by decide

/-- V-A5. -/
theorem test_ldReg :
    (go (one 1 7) 0x8010).reg 0 = 7 ∧ (go (one 1 7) 0x8010).reg 1 = 7 := by decide

/-- V-A6. -/
theorem test_orReg :
    let t := go ((two 0 0x0F 1 0xF0).setReg 15 1) 0x8011
    t.reg 0 = 0xFF ∧ t.reg vf = 1 := by decide

/-- V-A7. -/
theorem test_andReg :
    let t := go ((two 0 0x3C 1 0x0F).setReg 15 1) 0x8012
    t.reg 0 = 0x0C ∧ t.reg vf = 1 := by decide

/-- V-A8. -/
theorem test_xorReg :
    let t := go ((two 0 0xFF 1 0x0F).setReg 15 1) 0x8013
    t.reg 0 = 0xF0 ∧ t.reg vf = 1 := by decide

/-- V-A11 and V-A13. -/
theorem test_addReg :
    (go (two 0 0xFF 1 1) 0x8014).reg 0 = 0 ∧ (go (two 0 0xFF 1 1) 0x8014).reg vf = 1 ∧
      (go (two 0 0xFF 1 0) 0x8014).reg vf = 0 := by decide

/-- V-A16 and V-A17: VF as destination and as operand. -/
theorem test_addReg_vf :
    (go (two 15 0x10 1 0x20) 0x8F14).reg vf = 0x30 ∧ (go (two 0 0x10 15 0xF8) 0x80F4).reg 0 = 0x08 := by decide

/-- V-A19 and V-A20. -/
theorem test_sub :
    (go (two 0 3 1 5) 0x8015).reg 0 = 0xFE ∧ (go (two 0 3 1 5) 0x8015).reg vf = 0 ∧ (go (two 0 7 1 7) 0x8015).reg vf = 0 := by decide

/-- V-A18 and V-A23. -/
theorem test_sub_vf :
    (go (two 0 0x10 1 1) 0x8015).reg vf = 1 ∧ (go (two 15 0x10 1 1) 0x8F15).reg vf = 0x0F := by decide

/-- V-A24 and V-A25. -/
theorem test_shr :
    (go (one 4 5) 0x8406).reg 4 = 2 ∧ (go (one 4 5) 0x8406).reg vf = 1 ∧ (go (two 4 4 5 0xFF) 0x8456).reg 4 = 2 := by decide

/-- V-A28 and V-A29. -/
theorem test_subn :
    (go (two 0 1 1 0x10) 0x8017).reg 0 = 0x0F ∧ (go (two 0 1 1 0x10) 0x8017).reg vf = 1 ∧
      (go (two 0 5 1 3) 0x8017).reg 0 = 0xFE := by decide

/-- V-A31 and V-A32. -/
theorem test_shl :
    (go (one 4 0x81) 0x840E).reg 4 = 2 ∧ (go (one 4 0x81) 0x840E).reg vf = 1 ∧ (go (one 4 0x7F) 0x840E).reg vf = 0 := by decide

/-- V-A34. -/
theorem test_rnd :
    (go (State.reset.provideRnd 0xA7) 0xC30F).reg 3 = 0x07 := by decide

/-- R80: a step that is no CXNN uses up its own random byte, so that the next step has the next byte. -/
theorem test_rnd_byte_used_up :
    (go ((State.reset.provideRnd 0x11).provideRnd 0x22) 0x6000).rndQueue = [0x22] ∧
      (go ((State.reset.provideRnd 0x11).provideRnd 0x22) 0xC3FF).rndQueue = [0x22] := by decide

/-- V-A33, and its remark: with FLAG_ORDER = result_then_flag VF ends as the flag (R94). -/
theorem test_flag_order :
    (go (one 15 0x80) 0x8F0E).reg vf = 0 ∧
      (go { one 15 0x80 with cfg := { defaultConfig with flagOrder := .resultThenFlag } } 0x8F0E).reg vf = 1 := by decide

/-! ### Index register and memory (section 2.5) -/

/-- V-M1. -/
theorem test_ldI :
    (go State.reset 0xA2F0).i = 0x2F0 := by decide

/-- V-M3 and V-M4. -/
theorem test_addI :
    (go { one 2 1 with i := 0xFFF } 0xF21E).i = 0x1000 ∧ (go { one 2 2 with i := 0xFFFF } 0xF21E).i = 1 := by decide

/-- V-M5 and V-M9. -/
theorem test_ldFont :
    (go (one 1 0x0A) 0xF129).i = 0x082 ∧ (go (one 1 0xFF) 0xF129).i = 0x54B := by decide

/-- V-M10. -/
theorem test_ldBcd :
    let t := go { one 5 0xEA with i := 0x300 } 0xF533
    t.readByte 0x300 = 2 ∧ t.readByte 0x301 = 3 ∧ t.readByte 0x302 = 4 ∧ t.i = 0x300 := by decide

/-- V-M13 and V-M14. -/
theorem test_ldBcd_range :
    fatalCode (go { one 5 0x7B with i := 0xFFD } 0xF533) = 0 ∧ fatalCode (go { one 5 0x7B with i := 0xFFE } 0xF533) = 5 ∧
      (go { one 5 0x7B with i := 0xFFE } 0xF533).readByte 0xFFE = 0 := by decide

/-- V-M15. -/
theorem test_storeRegs :
    let t := go { (two 0 1 1 2).setReg 2 3 with i := 0x300 } 0xF255
    t.readByte 0x300 = 1 ∧ t.readByte 0x301 = 2 ∧ t.readByte 0x302 = 3 ∧ t.readByte 0x303 = 0 ∧ t.i = 0x300 := by decide

/-- V-M16, V-M17, V-M18 and V-M22. -/
theorem test_storeRegs_range :
    (go { one 0 0xAB with i := 0xFFF } 0xF055).readByte 0xFFF = 0xAB ∧ fatalCode (go { one 0 0xAB with i := 0xFFF } 0xF155) = 5 ∧
      fatalCode (go { State.reset with i := 0xFFFF } 0xF055) = 5 ∧ (go { one 0 0xAA with i := 0x050 } 0xF055).readByte 0x050 = 0xAA := by decide

/-- X = 15 loads VF (as V-M20), here from the glyph table of R36. -/
theorem test_loadRegs :
    (go { State.reset with i := 0x050 } 0xFF65).reg 0 = 0xF0 ∧ (go { State.reset with i := 0x050 } 0xFF65).reg 13 = 0x80 ∧
      (go { State.reset with i := 0x050 } 0xFF65).reg vf = 0xF0 := by decide

/-- V-M21. -/
theorem test_loadRegs_range :
    fatalCode (go { one 0 9 with i := 0xFF1 } 0xFF65) = 4 ∧ (go { one 0 9 with i := 0xFF1 } 0xFF65).reg 0 = 9 := by decide

/-! ### Input and timers (section 2.6) -/

/-- V-T1 and V-T2. -/
theorem test_skp :
    (go ((one 0 5).setKey 5 true) 0xE09E).pc = 0x204 ∧ (go (one 0 5) 0xE09E).pc = 0x202 := by decide

/-- V-T5, and the two other values of KEY_OOR_POLICY (R113). -/
theorem test_skp_range :
    fatalCode (go (one 0 0x10) 0xE09E) = 6 ∧
      (go { (one 0 0x15).setKey 5 true with cfg := { defaultConfig with keyOorPolicy := .mask } } 0xE09E).pc = 0x204 ∧
      (go { (one 0 0x15).setKey 5 true with cfg := { defaultConfig with keyOorPolicy := .notPressed } } 0xE09E).pc = 0x202 := by decide

/-- V-T3 and V-T4. -/
theorem test_sknp :
    (go (one 0 5) 0xE0A1).pc = 0x204 ∧ (go ((one 0 5).setKey 5 true) 0xE0A1).pc = 0x202 := by decide

/-- V-T6. -/
theorem test_ldVxDt :
    (go { State.reset with dt := 32 } 0xF307).reg 3 = 0x20 ∧ (go { State.reset with dt := 32 } 0xF307).dt = 31 := by decide

/-- V-T12. -/
theorem test_ldVxKey_waits :
    let t := go { State.reset with dt := 3, st := 2 } 0xF50A
    t.pc = 0x200 ∧ t.dt = 2 ∧ t.st = 1 ∧ t.status = .waitingKey := by decide

/-- V-T13, from a waiting machine (V-E14). -/
theorem test_ldVxKey :
    let t := go { (State.reset.setKey 9 true).setKey 7 true with status := .waitingKey } 0xF50A
    t.reg 5 = 7 ∧ t.pc = 0x202 ∧ t.status = .running := by decide

/-- V-T8 and V-T9. -/
theorem test_ldDtVx :
    (go (one 2 0x3C) 0xF215).dt = 59 ∧ (go { State.reset with dt := 9 } 0xF215).dt = 0 := by decide

/-- V-T10 and V-T11. -/
theorem test_ldStVx :
    (go (one 2 0x0A) 0xF218).st = 9 ∧ (go (one 2 1) 0xF218).toneOn = false := by decide

/-! ### The host (R52, R132, R135, R139) -/

/-- The host takes the frame and clears the flag. -/
theorem test_takeFrame :
    (go State.reset 0x00E0).takeFrame.2.1 = true ∧ (go State.reset 0x00E0).takeFrame.2.2.drawPending = false := by decide

/-- Reset (R37): the glyph table and the program space. -/
theorem test_reset_memory :
    State.reset.readByte 0x04F = 0 ∧ State.reset.readByte 0x050 = 0xF0 ∧ State.reset.readByte 0x09F = 0x80 ∧
      State.reset.readByte 0x0A0 = 0 ∧ State.reset.readByte 0x200 = 0 ∧ State.reset.pc = 0x200 := by decide

/-! ### Witnesses: for each statement with hypotheses, states that meet them, clause by clause -/

/-- A halted state: 00EE on an empty stack. -/
def halted : State := ran .ret State.reset

/-- The configuration that writes the flag last. -/
def flagLast : Config := { defaultConfig with flagOrder := .resultThenFlag }

/-- The reset state under another policy for key numbers above 15, V0 holding 16. -/
def keyState (p : KeyOorPolicy) : State := { one 0 16 with cfg := { defaultConfig with keyOorPolicy := p } }

/-- A state with key 15 and key 3 pressed. -/
def keysDown : State := (State.reset.setKey 15 true).setKey 3 true

/-- `s` runs to `after s` when it is not halted: no step stops without a next state. -/
theorem runs_after (s : State) (h : s.isHalted = false) (h' : (match step s with | .next _ => true | _ => false) = true) :
    s.runs (after s) := by
  refine ⟨h, ?_⟩
  unfold after
  revert h'
  cases step s <;> simp

/-- The reset state runs, and so does the state with an opcode placed. -/
theorem witness_runs_unknown : State.reset.runs (after State.reset) := runs_after _ rfl rfl

/-! AddSetsCarry, SubSetsStrictlyGreater, ShiftRightIgnoresY, SubnSetsStrictlyGreater, ShiftLeftIgnoresY: the cases of `flagged` -/

theorem witness_flagged_other_register :
    (3 : Nibble) ≠ vf := by decide

theorem witness_flagged_vf_result :
    (15 : Nibble) = vf ∧ State.reset.cfg.flagOrder = .flagThenResult := by decide

theorem witness_flagged_vf_flag :
    (15 : Nibble) = vf ∧ ({ State.reset with cfg := flagLast } : State).cfg.flagOrder = .resultThenFlag := by decide

theorem witness_RandomByteMasked_supplied :
    (State.reset.provideRnd 0xA7).rndQueue = 0xA7 :: [] := rfl

theorem witness_RandomByteMasked_free :
    State.reset.rndQueue = [] := rfl

theorem witness_CallPushesReturnAddress_lowest :
    ∃ k : Fin 16, State.reset.sp.val = k.val ∧ k = 0 := by decide

theorem witness_CallPushesReturnAddress_highest :
    ∃ k : Fin 16, ({ State.reset with sp := 15 } : State).sp.val = k.val := by decide

theorem witness_CallPushesReturnAddress_overflow :
    ({ State.reset with sp := 16 } : State).sp.val = 16 := rfl

theorem witness_ReturnPopsIntoPc_lowest :
    ∃ k : Fin 16, ({ State.reset with sp := 1 } : State).sp.val = k.val + 1 := by decide

theorem witness_ReturnPopsIntoPc_highest :
    ∃ k : Fin 16, ({ State.reset with sp := 16 } : State).sp.val = k.val + 1 := by decide

theorem witness_ReturnPopsIntoPc_underflow :
    State.reset.sp.val = 0 := rfl

theorem witness_CallThenReturnRoundTrip :
    ({ State.reset with sp := 15 } : State).sp.val < 16 := by decide

theorem witness_DrawFlipsCoveredPixels_no_row :
    (0 : Nibble).val = 0 ∧ ({ State.reset with i := 0xFFFF } : State).i.toNat = 65535 := by decide

theorem witness_DrawFlipsCoveredPixels_last_byte :
    ({ State.reset with i := 0xFF1 } : State).i.toNat + (15 : Nibble).val - 1 = 4095 := by decide

theorem witness_DrawFlipsCoveredPixels_out_of_range :
    ¬ ((15 : Nibble).val = 0 ∨ ({ State.reset with i := 0xFF2 } : State).i.toNat + (15 : Nibble).val - 1 ≤ 4095) := by decide

theorem witness_DrawFlipsCoveredPixels_collision :
    let s : State := { State.reset with i := 0x050, disp := Display.blank.setPixel 0 0 true }
    s.spriteCovers 0 1 5 0 0 = true ∧ s.disp.pixel 0 0 = true := by decide

theorem witness_DrawFlipsCoveredPixels_no_collision :
    ¬ ∃ px py, ({ State.reset with i := 0x050 } : State).spriteCovers 0 1 5 px py = true ∧ State.reset.disp.pixel px py = true := by simp [State.reset, State.initial, Display.pixel]

/-! DrawTwiceRestoresFrame, SecondDrawAlwaysCollides, DrawPixelCount: glyph 0 drawn at (0, 0), and drawn where every covered pixel is on -/

theorem witness_DrawTwice :
    let s : State := { State.reset with i := 0x050 }
    s.i.toNat + (5 : Nibble).val ≤ 4096 ∧ exec (.drw 0 1 5) s = .next (ran (.drw 0 1 5) s) ∧
      (ran (.drw 0 1 5) s).reg 0 = s.reg 0 ∧ (ran (.drw 0 1 5) s).reg 1 = s.reg 1 ∧ 0 < s.spriteBits 5 ∧
      exec (.drw 0 1 5) (ran (.drw 0 1 5) s) = .next (ran (.drw 0 1 5) (ran (.drw 0 1 5) s)) := ⟨by decide, rfl, by decide, by decide, by decide, rfl⟩

theorem witness_DrawTwice_collides_once :
    let s : State := ran (.drw 0 1 5) { State.reset with i := 0x050 }
    (ran (.drw 0 1 5) s).reg vf = 1 ∧ (ran (.drw 0 1 5) (ran (.drw 0 1 5) s)).reg vf = 0 := by decide

theorem witness_DrawPixelCount_no_row :
    (0 : Nibble).val = 0 ∧ exec (.drw 0 1 0) State.reset = .next (ran (.drw 0 1 0) State.reset) := ⟨rfl, rfl⟩

theorem witness_StoreDecimalDigits_last_byte :
    ({ State.reset with i := 0xFFD } : State).i.toNat + 2 ≤ 4095 ∧ State.reset.mem.wf State.reset.cfg = true := by decide

theorem witness_StoreDecimalDigits_out_of_range :
    4095 < ({ State.reset with i := 0xFFE } : State).i.toNat + 2 := by decide

theorem witness_StoreRegisters_last_byte :
    ({ State.reset with i := 0xFF0 } : State).i.toNat + (15 : Nibble).val ≤ 4095 ∧ State.reset.mem.wf State.reset.cfg = true ∧
      (15 : Nibble) ≤ 15 := by decide

theorem witness_StoreRegisters_out_of_range :
    4095 < ({ State.reset with i := 0xFF1 } : State).i.toNat + (15 : Nibble).val := by decide

theorem witness_LoadRegisters_last_byte :
    ({ State.reset with i := 0xFFF } : State).i.toNat + (0 : Nibble).val ≤ 4095 ∧ (0 : Nibble) ≤ 0 := by decide

theorem witness_LoadRegisters_out_of_range :
    4095 < ({ State.reset with i := 0xFFF } : State).i.toNat + (1 : Nibble).val := by decide

theorem witness_StoredOpcodeIsFetched :
    State.reset.mem.wf State.reset.cfg = true ∧ ({ State.reset with i := 0x300 } : State).i.toNat + (1 : Nibble).val ≤ 4095 ∧
      (0 : Nibble) < 1 ∧ exec (.storeRegs 1) { State.reset with i := 0x300 } = .next (ran (.storeRegs 1) { State.reset with i := 0x300 }) := ⟨by decide, by decide, by decide, rfl⟩

/-! SkipIfKeyPressed, SkipIfKeyNotPressed: key numbers 15 and 16 -/

theorem witness_SkipIfKey_in_range :
    ((one 0 15).reg 0).toNat = (15 : Nibble).val := by decide

theorem witness_SkipIfKey_mask :
    15 < ((keyState .mask).reg 0).toNat ∧ (keyState .mask).cfg.keyOorPolicy = .mask ∧ ((keyState .mask).reg 0).toNat % 16 = (0 : Nibble).val := by decide

theorem witness_SkipIfKey_not_pressed :
    15 < ((keyState .notPressed).reg 0).toNat ∧ (keyState .notPressed).cfg.keyOorPolicy = .notPressed := by decide

theorem witness_SkipIfKey_fault :
    15 < ((keyState .fault).reg 0).toNat ∧ (keyState .fault).cfg.keyOorPolicy = .fault := by decide

theorem witness_WaitForKey_pressed :
    keysDown.key 3 = true ∧ ∀ j, j < (3 : Nibble) → keysDown.key j = false := by decide

theorem witness_WaitForKey_last_key :
    (State.reset.setKey 15 true).key 15 = true ∧ ∀ j, j < (15 : Nibble) → (State.reset.setKey 15 true).key j = false := by decide

theorem witness_WaitForKey_none :
    ∀ k, State.reset.key k = false := by decide

theorem witness_TimerInstructionsInAStep_F007 :
    (State.reset.withFetchWord 16 0xF007).runs (after (State.reset.withFetchWord 16 0xF007)) ∧
      (State.reset.withFetchWord 16 0xF007).fetchFaults = false ∧ (State.reset.withFetchWord 16 0xF007).fetchWord = encode (.ldVxDt 0) :=
  ⟨runs_after _ rfl rfl, by decide, by decide⟩

theorem witness_TimerInstructionsInAStep_F015 :
    (State.reset.withFetchWord 16 0xF015).runs (after (State.reset.withFetchWord 16 0xF015)) ∧
      (State.reset.withFetchWord 16 0xF015).fetchFaults = false ∧ (State.reset.withFetchWord 16 0xF015).fetchWord = encode (.ldDtVx 0) :=
  ⟨runs_after _ rfl rfl, by decide, by decide⟩

theorem witness_TimerInstructionsInAStep_F018 :
    (State.reset.withFetchWord 16 0xF018).runs (after (State.reset.withFetchWord 16 0xF018)) ∧
      (State.reset.withFetchWord 16 0xF018).fetchFaults = false ∧ (State.reset.withFetchWord 16 0xF018).fetchWord = encode (.ldStVx 0) :=
  ⟨runs_after _ rfl rfl, by decide, by decide⟩

/-- StepRunsDecodedInstruction, at the last legal fetch address. -/
theorem witness_StepRunsDecodedInstruction :
    let s := ({ State.reset with pc := 0xFFD } : State).withFetchWord 16 0x6011
    s.isHalted = false ∧ s.pc.toNat < s.cfg.fetchLimit.val ∧
      decode (BitVec.ofNat 16 (256 * (s.readByte s.pc.toNat).toNat + (s.readByte (s.pc.toNat + 1)).toNat)) = some (.ldImm 0 0x11) := by
  decide

theorem witness_UnknownOpcodeReportedAndSkipped :
    State.reset.isHalted = false ∧ State.reset.pc.toNat < State.reset.cfg.fetchLimit.val ∧ decode State.reset.fetchWord = none := by decide

theorem witness_FetchLimitIsFatal :
    ({ State.reset with pc := 0xFFE } : State).isHalted = false ∧
      ({ State.reset with pc := 0xFFE } : State).cfg.fetchLimit.val ≤ ({ State.reset with pc := 0xFFE } : State).pc.toNat := by decide

theorem witness_HaltedForever :
    halted.status = .halted { cause := .stackUnderflow, pc := 0x200, op := some 0x00EE } ∧ HostAction.clearDrawPending ≠ .restart := ⟨by decide, by decide⟩

/-- FatalStepChangesStatusAlone, FatalErrorsFollowTable (an instruction's error) and TimersTickOnceAStep (a fatal step). -/
theorem witness_fatal_step :
    let s := State.reset.withFetchWord 16 0x00EE
    s.runs (after s) ∧ s.fetchFaults = false ∧ decode s.fetchWord = some .ret ∧ fatalCondition .ret s = some .stackUnderflow ∧
      (after s).status = .halted { cause := .stackUnderflow, pc := 0x200, op := some 0x00EE } ∧ (after s).isHalted = true :=
  ⟨runs_after _ rfl rfl, by decide, by decide, by decide, by decide, by decide⟩

/-- FatalErrorsFollowTable: the fetch limit. -/
theorem witness_FatalErrorsFollowTable_fetch :
    let s : State := { State.reset with pc := 0xFFE }
    s.runs (after s) ∧ s.fetchFaults = true :=
  ⟨runs_after _ rfl rfl, by decide⟩

/-- FatalErrorsFollowTable (no error), TimersTickOnceAStep, StatusAfterAStep, PcUpdates: a step that goes on, of an unknown word (the
decoder gives no instruction, so no condition on one fails). -/
theorem witness_unknown_step :
    State.reset.fetchFaults = false ∧ decode State.reset.fetchWord = none ∧ (after State.reset).isHalted = false := by decide

/-- TimersTickOnceAStep: a step of FX15 and one of FX18 that go on. -/
theorem witness_TimersTickOnceAStep :
    decode (State.reset.withFetchWord 16 0xF015).fetchWord = some (.ldDtVx 0) ∧ (go State.reset 0xF015).isHalted = false ∧
      decode (State.reset.withFetchWord 16 0xF018).fetchWord = some (.ldStVx 0) ∧ (go State.reset 0xF018).isHalted = false := by decide

/-- StatusAfterAStep: a waiting step. -/
theorem witness_StatusAfterAStep_waiting :
    let s := State.reset.withFetchWord 16 0xF50A
    decode s.fetchWord = some (.ldVxKey 5) ∧ (∀ k, s.key k = false) ∧ (after s).isHalted = false := by decide

/-- PcUpdates: a step of an instruction. -/
theorem witness_PcUpdates :
    let s := State.reset.withFetchWord 16 0x1234
    s.runs (after s) ∧ decode s.fetchWord = some (.jp 0x234) ∧ (after s).isHalted = false :=
  ⟨runs_after _ rfl rfl, by decide, by decide⟩

/-- RandomInputReachesOnlyCXNN, ReportsAreOutputAlone, EngineNeverWritesKeysOrConfig, StepKeepsInvariant: a step from the reset state, which
meets the invariant. -/
theorem witness_step_of_reset :
    step State.reset = .next (after State.reset) ∧ (∀ x nn, decode State.reset.fetchWord ≠ some (.rnd x nn)) ∧ State.reset.Inv := by
  refine ⟨rfl, ?_, rfl, by decide, by decide, by simp [State.reset, State.initial]⟩
  have h : decode State.reset.fetchWord = none := by decide
  simp [h]

theorem witness_DisplayWriters :
    let s := ({ State.reset with disp := Display.blank.setPixel 0 0 true } : State).withFetchWord 16 0x00E0
    s.runs (after s) ∧ (after s).disp.pixel 0 0 ≠ s.disp.pixel 0 0 :=
  ⟨runs_after _ rfl rfl, by decide⟩

theorem witness_DrawPendingRaisedAndKept :
    let s := (State.reset : State).withFetchWord 16 0x00E0
    s.runs (after s) ∧ s.drawPending = false ∧ (after s).drawPending ≠ s.drawPending ∧ (after s).isHalted = false ∧ s.fetchFaults = false ∧
        decode s.fetchWord = some .cls :=
  ⟨runs_after _ rfl rfl, by decide⟩

theorem witness_DrawPendingRaisedAndKept_kept :
    let s := ({ State.reset with drawPending := true } : State).withFetchWord 16 0x6000
    s.runs (after s) ∧ s.drawPending = true :=
  ⟨runs_after _ rfl rfl, by decide⟩

theorem witness_IndexWriters :
    let s := (State.reset : State).withFetchWord 16 0xA2F0
    s.runs (after s) ∧ (after s).i ≠ s.i :=
  ⟨runs_after _ rfl rfl, by decide⟩

theorem witness_CallStackWriters :
    let s := (State.reset : State).withFetchWord 16 0x2300
    s.runs (after s) ∧ (after s).sp ≠ s.sp ∧ (after s).stack ≠ s.stack :=
  ⟨runs_after _ rfl rfl, by decide⟩

theorem witness_CallStackWriters_return :
    let s := ({ State.reset with sp := 1, stack := State.reset.stack.set 0 0x300 } : State).withFetchWord 16 0x00EE
    s.runs (after s) ∧ (after s).sp ≠ s.sp ∧ decode s.fetchWord = some .ret :=
  ⟨runs_after _ rfl rfl, by decide⟩

theorem witness_MemoryWriters :
    let s := ({ one 0 0xAA with i := 0xFFF } : State).withFetchWord 16 0xF055
    s.runs (after s) ∧ (after s).readByte 4095 ≠ s.readByte 4095 :=
  ⟨runs_after _ rfl rfl, by decide⟩

theorem witness_RegisterWriters :
    let s := (State.reset : State).withFetchWord 16 0x6A42
    s.runs (after s) ∧ (after s).reg 0xA ≠ s.reg 0xA :=
  ⟨runs_after _ rfl rfl, by decide⟩

/-- RandomInputReachesOnlyCXNN: a step of CXNN, which goes on, and a step of a halted machine. -/
theorem witness_RandomInputReachesOnlyCXNN :
    let s := (State.reset.provideRnd 0xA7).withFetchWord 16 0xC30F
    s.runs (after s) ∧ decode s.fetchWord = some (.rnd 3 0x0F) ∧ (after s).isHalted = false ∧ step halted = .next (after halted) ∧
      (after halted).isHalted = true :=
  ⟨runs_after _ rfl rfl, by decide, by decide, rfl, by decide⟩

/-- HostKeepsInvariant: two keys that differ, set on and read. -/
theorem witness_HostKeepsInvariant_keys :
    (0 : Nibble) ≠ 15 ∧ (State.reset.host (.setKey 15 true)).key 15 = true ∧ (State.reset.host (.setKey 15 true)).key 0 = false := by decide

/-- DisplayWriters, DrawPendingRaisedAndKept, HaltedForever: a host action that is no restart, and one that changes the flag. -/
theorem witness_host_actions :
    HostAction.setKey 0 true ≠ .restart ∧
      (({ State.reset with drawPending := true } : State).host .clearDrawPending).drawPending ≠ true := by decide

theorem witness_EncodeDecode : decode 0xD12F = some (.drw 1 2 0xF) := by decide

theorem witness_DecodeFollowsOpcodeMap : (⟨0xF000, 0xD000⟩ : OpcodeRow) ∈ opcodeTable ∧ (⟨0xF000, 0xD000⟩ : OpcodeRow).matches 0xD12F = true := by
  decide

/-- ResetValues and RomLoad: an image of the largest size, with its last byte, and an address outside it and outside the glyph table. -/
theorem witness_ResetValues :
    (List.replicate 3584 (0xAA : Byte)).length ≤ 3584 ∧ 3583 < (List.replicate 3584 (0xAA : Byte)).length ∧
      ¬ (State.reset.cfg.fontBase.val ≤ 0 ∧ 0 < State.reset.cfg.fontBase.val + 80) ∧
      ¬ (0x200 ≤ 0 ∧ 0 < 0x200 + (List.replicate 3584 (0xAA : Byte)).length) := by
  simp only [List.length_replicate]
  decide

/-- ResetValues: the last byte of memory, outside an image one byte shorter and outside the glyph table. -/
theorem witness_ResetValues_last_byte :
    (List.replicate 3583 (0xAA : Byte)).length ≤ 3584 ∧ 4095 < 4096 ∧
      ¬ (State.reset.cfg.fontBase.val ≤ 4095 ∧ 4095 < State.reset.cfg.fontBase.val + 80) ∧
      ¬ (0x200 ≤ 4095 ∧ 4095 < 0x200 + (List.replicate 3583 (0xAA : Byte)).length) := by
  simp only [List.length_replicate]
  decide

theorem witness_RomLoad_too_large : 3584 < (List.replicate 3585 (0xAA : Byte)).length := by
  simp only [List.length_replicate]
  decide

/-- HostKeepsInvariant: the reset state meets the invariant (`witness_step_of_reset`), and a ROM loads into it. -/
theorem witness_HostKeepsInvariant : ∃ t, State.reset.loadRom [0x60] = .ok t := ⟨_, rfl⟩

theorem witness_RestartInitializes : halted.cfg = defaultConfig := rfl

end Sys2Proof.Tests
end

section
/-!
PROOFS. What reset and a ROM load leave in each piece of state (spec/00_scope.md R6; spec/10_state.md R36, R37;
spec/70_reset_and_hazards.md R139 to R142): the contents of memory after initialization, the fields of the initial state, and the loader.
-/

namespace Sys2Proof.Machine

/-! ### Memory after initialization -/

/-- Row `r` of the glyph of digit `d` stands at FONT_BASE + 5d + r (R35). -/
theorem initByte_glyph (cfg : Config) (d : Fin 16) (r : Fin 5) :
    initByte cfg (cfg.fontBase.val + 5 * d.val + r.val) = cfg.glyphData[d.val][r.val] := by
  have hoff : cfg.fontBase.val + 5 * d.val + r.val - cfg.fontBase.val = 5 * d.val + r.val := by omega
  have hdigit : (5 * d.val + r.val) / 5 = d.val := by omega
  have hrow : (5 * d.val + r.val) % 5 = r.val := by omega
  have hin : cfg.fontBase.val ≤ cfg.fontBase.val + 5 * d.val + r.val ∧ 5 * d.val + r.val < 80 := by omega
  simp only [initByte, hoff, hdigit, hrow, dif_pos hin]

/-- Outside the glyph table memory starts as 0 (R37). -/
theorem initByte_outside_glyphs (cfg : Config) {a : Nat}
    (h : ¬ (cfg.fontBase.val ≤ a ∧ a < cfg.fontBase.val + 80)) : initByte cfg a = 0 :=
  dif_neg (by omega)

/-- The glyph table ends at or before PROGRAM_BASE (R6), so no ROM image reaches it. -/
theorem glyph_address_lt_programBase (cfg : Config) (d : Fin 16) (r : Fin 5) :
    cfg.fontBase.val + 5 * d.val + r.val < programBase := by
  unfold programBase
  omega

/-! ### The initial state -/

section Initial

variable (cfg : Config)

@[simp] theorem State.initial_cfg : (State.initial cfg).cfg = cfg := rfl
@[simp] theorem State.initial_i : (State.initial cfg).i = 0 := rfl
@[simp] theorem State.initial_pc : (State.initial cfg).pc = 0x200 := rfl
@[simp] theorem State.initial_sp : (State.initial cfg).sp = 0 := rfl
@[simp] theorem State.initial_dt : (State.initial cfg).dt = 0 := rfl
@[simp] theorem State.initial_st : (State.initial cfg).st = 0 := rfl
@[simp] theorem State.initial_disp : (State.initial cfg).disp = Display.blank := rfl
@[simp] theorem State.initial_drawPending : (State.initial cfg).drawPending = false := rfl
@[simp] theorem State.initial_status : (State.initial cfg).status = .running := rfl

@[simp] theorem State.initial_stack : (State.initial cfg).stack = Vector.replicate 16 0 := rfl
@[simp] theorem State.initial_keys : (State.initial cfg).keys = Vector.replicate 16 false := rfl
@[simp] theorem State.initial_readByte (a : Nat) : (State.initial cfg).readByte a = initByte cfg a := rfl

@[simp] theorem State.initial_reg (r : Nibble) : (State.initial cfg).reg r = 0 := by
  simp [State.reg, State.initial]

theorem State.initial_wf : (State.initial cfg).mem.wf (State.initial cfg).cfg = true := rfl

end Initial

/-! ### The ROM loader -/

/-- An image of at most MAX_ROM bytes is written at PROGRAM_BASE upward (R141). -/
theorem State.loadRom_of_length_le (s : State) {rom : List Byte} (h : rom.length ≤ 3584) :
    s.loadRom rom = .ok (s.writeBytes programBase rom) :=
  if_pos (decide_eq_true h)

/-- An accepted image ends within memory. -/
theorem programBase_add_length_le {rom : List Byte} (h : rom.length ≤ 3584) : programBase + rom.length ≤ memSize := by
  unfold programBase memSize
  omega

section Loaded

variable (cfg : Config) (rom : List Byte)

/-- The initial state with an image loaded keeps the glyph table (R37). -/
theorem State.initial_loaded_glyph (d : Fin 16) (r : Fin 5) :
    ((State.initial cfg).writeBytes programBase rom).readByte (cfg.fontBase.val + 5 * d.val + r.val) =
      cfg.glyphData[d.val][r.val] := by
  rw [State.writeBytes_read_outside _ _ _ (.inl (glyph_address_lt_programBase cfg d r)), State.initial_readByte, initByte_glyph]

/-- The initial state with an image loaded holds 0 outside the image and the glyph table (R37). -/
theorem State.initial_loaded_elsewhere {a : Nat} (hg : ¬ (cfg.fontBase.val ≤ a ∧ a < cfg.fontBase.val + 80))
    (hr : ¬ (programBase ≤ a ∧ a < programBase + rom.length)) :
    ((State.initial cfg).writeBytes programBase rom).readByte a = 0 := by
  rw [State.writeBytes_read_outside _ _ _ (by omega), State.initial_readByte, initByte_outside_glyphs cfg hg]

end Loaded

/-- Settles O55: the loader changes memory alone, so every other field is the initial state's, and memory is the initial contents under
the image's bytes. -/
theorem resetValues : Obligations.ResetValues := by
  refine ⟨⟨rfl, rfl, rfl, rfl, by decide⟩, rfl, rfl, fun rom hlen => ?_⟩
  have hcfg : (State.reset.writeBytes programBase rom).cfg = defaultConfig := State.writeBytes_cfg ..
  refine ⟨_, State.loadRom_of_length_le _ hlen, ?_⟩
  rw [hcfg]
  have himage := State.writeBytes_read_inside State.reset programBase rom (State.initial_wf _) (programBase_add_length_le hlen)
  have hglyph := State.initial_loaded_glyph defaultConfig rom
  have hzero := fun a (_ : a < 4096) => State.initial_loaded_elsewhere defaultConfig rom (a := a)
  refine ⟨rfl, ?regs, ?i, ?pc, ?stack, ?sp, ?dt, ?st, ?pixels, ?drawPending, ?keys, ?status, hglyph, himage, hzero⟩
  case keys => simp [State.reset, State.key]
  all_goals simp [State.reset]

end Sys2Proof.Machine
end

section
/-!
PROOFS. The decoder gives back every instruction from its opcode (spec/30_encoding.md R56 to R60).
-/

namespace Sys2Proof

/-! ### The fields of an encoded word -/

section Fields

variable {h : Nat} (hh : h < 16)
include hh

theorem opH_encodeNNN (nnn : BitVec 12) : opH (encodeNNN h nnn) = h := by
  have := nnn.isLt
  rw [opH_eq, encodeNNN_toNat hh]
  omega

theorem opNNN_encodeNNN (nnn : BitVec 12) : opNNN (encodeNNN h nnn) = nnn := by
  have := nnn.isLt
  apply BitVec.eq_of_toNat_eq
  rw [opNNN_toNat, encodeNNN_toNat hh]
  omega

theorem opH_encodeXNN (x : Nibble) (nn : Byte) : opH (encodeXNN h x nn) = h := by
  have := nn.isLt
  rw [opH_eq, encodeXNN_toNat hh]
  omega

theorem opX_encodeXNN (x : Nibble) (nn : Byte) : opX (encodeXNN h x nn) = x := by
  have := nn.isLt
  apply Fin.ext
  rw [opX_val, encodeXNN_toNat hh]
  omega

theorem lowByte_encodeXNN (x : Nibble) (nn : Byte) : bitField (encodeXNN h x nn) 7 0 = nn.toNat := by
  have := nn.isLt
  rw [lowByte_eq, encodeXNN_toNat hh]
  omega

theorem opNN_encodeXNN (x : Nibble) (nn : Byte) : opNN (encodeXNN h x nn) = nn := by
  rw [opNN, lowByte_encodeXNN hh, BitVec.ofNat_toNat, BitVec.setWidth_eq]

theorem opH_encodeXYN (x y n : Nibble) : opH (encodeXYN h x y n) = h := by
  rw [opH_eq, encodeXYN_toNat hh]
  omega

theorem opX_encodeXYN (x y n : Nibble) : opX (encodeXYN h x y n) = x := by
  apply Fin.ext
  rw [opX_val, encodeXYN_toNat hh]
  omega

theorem opY_encodeXYN (x y n : Nibble) : opY (encodeXYN h x y n) = y := by
  apply Fin.ext
  rw [opY_val, encodeXYN_toNat hh]
  omega

theorem opN_encodeXYN (x y n : Nibble) : opN (encodeXYN h x y n) = n := by
  apply Fin.ext
  rw [opN_val, encodeXYN_toNat hh]
  omega

end Fields

/-- The decoder gives an instruction back from its opcode: the layout's fields are the operands, and the family and the low bits select it. -/
theorem decode_encode (i : Instr) : decode (encode i) = some i := by
  cases i with
  | cls | ret => rfl
  | jp | call | ldI | jpV0 => simp [encode, decode, opH_encodeNNN, opNNN_encodeNNN]
  | seImm | sneImm | ldImm | addImm | rnd => simp [encode, decode, opH_encodeXNN, opX_encodeXNN, opNN_encodeXNN]
  | drw => simp [encode, decode, opH_encodeXYN, opX_encodeXYN, opY_encodeXYN, opN_encodeXYN]
  | seReg => simp [encode, decode, decodeFamily5, opH_encodeXYN, opX_encodeXYN, opY_encodeXYN, opN_encodeXYN]
  | ldReg | orReg | andReg | xorReg | addReg | sub | shr | subn | shl =>
    simp [encode, decode, decodeFamily8, opH_encodeXYN, opX_encodeXYN, opY_encodeXYN, opN_encodeXYN]
  | sneReg => simp [encode, decode, decodeFamily9, opH_encodeXYN, opX_encodeXYN, opY_encodeXYN, opN_encodeXYN]
  | skp | sknp => simp [encode, decode, decodeFamilyE, opH_encodeXNN, opX_encodeXNN, lowByte_encodeXNN]
  | ldVxDt | ldVxKey | ldDtVx | ldStVx | addI | ldFont | ldBcd | storeRegs | loadRegs =>
    simp [encode, decode, decodeFamilyF, opH_encodeXNN, opX_encodeXNN, lowByte_encodeXNN]

end Sys2Proof
end

section
/-!
PROOFS. What a running step does, and who writes each piece of state (spec/10_state.md R16 to R39).
-/

namespace Sys2Proof.Machine

variable {s t u : State} {i : Instr} {o : Option Instr}

/-! ### The writers of each piece of state -/

/-- Every piece of state but PC, the timers, the status and the model's ports is the same in `t` as in `s`, unless the decoded word `o` is
one that spec/10_state.md lists as its writer. -/
structure WritersOnly (o : Option Instr) (s t : State) : Prop where
  cfg : t.cfg = s.cfg
  keys : t.keys = s.keys
  mem : t.mem = s.mem ∨ (∃ x, o = some (.ldBcd x)) ∨ ∃ x, o = some (.storeRegs x)
  reg : ∀ r, t.reg r = s.reg r ∨ ∃ i, o = some i ∧ writesReg i r = true
  i : t.i = s.i ∨ (∃ nnn, o = some (.ldI nnn)) ∨ (∃ x, o = some (.addI x)) ∨ ∃ x, o = some (.ldFont x)
  sp : t.sp = s.sp ∨ (∃ nnn, o = some (.call nnn)) ∨ o = some .ret
  stack : t.stack = s.stack ∨ ∃ nnn, o = some (.call nnn)
  disp : t.disp = s.disp ∨ o = some .cls ∨ ∃ x y n, o = some (.drw x y n)
  drawPending : t.drawPending = s.drawPending ∨ t.drawPending = true ∧ (o = some .cls ∨ ∃ x y n, o = some (.drw x y n))

/-- Setting the status writes nothing else. -/
theorem WritersOnly.setStatus (x : Status) : WritersOnly o s (s.setStatus x) := by
  constructor <;> simp

/-- An unknown word writes PC and the report port alone. -/
theorem WritersOnly.skipUnknown (op : Word) : WritersOnly o s (s.skipUnknown op) := by
  constructor <;> simp [State.skipUnknown]

/-- The status RUNNING set before the instruction and the end of the step after it write nothing of the list. -/
theorem WritersOnly.finish {x : Status} (h : WritersOnly o (s.setStatus x) u) : WritersOnly o s u.finish := by
  obtain ⟨hcfg, hkeys, hmem, hreg, hi, hsp, hstack, hdisp, hdraw⟩ := h
  constructor <;> simpa

/-- A register outside the "written by" column of R16 keeps its value. -/
theorem Effect.reg_eq (h : Effect i s u) (r : Nibble) (hr : writesReg i r = false) : u.reg r = s.reg r := by
  cases i with
  | ldImm | addImm | ldReg | orReg | andReg | xorReg | rnd | ldVxDt =>
    obtain rfl := h
    exact State.setReg_reg_other _ _ (by simpa [writesReg] using hr)
  | addReg | sub | shr | subn | shl =>
    obtain rfl := h
    simp only [writesReg, Bool.or_eq_false_iff, beq_eq_false_iff_ne] at hr
    simp [State.writeFlagged_reg, hr]
  | drw =>
    obtain ⟨-, rfl⟩ := h
    exact State.setReg_reg_other _ _ (by simpa [writesReg] using hr)
  | ldVxKey =>
    obtain ⟨k, -, rfl⟩ | ⟨-, rfl⟩ := h
    · exact State.setReg_reg_other _ _ (by simpa [writesReg] using hr)
    · rfl
  | loadRegs =>
    obtain ⟨-, rfl⟩ := h
    simp only [writesReg, decide_eq_false_iff_not] at hr
    simp [State.loadRegsFromI_reg, hr]
  | ret | call => obtain ⟨-, rfl⟩ := h; rfl
  | skp | sknp => obtain ⟨b, -, rfl⟩ := h; rfl
  | ldBcd | storeRegs => obtain ⟨-, rfl⟩ := h; simp
  | _ => obtain rfl := h; rfl

/-- An instruction that has its effect writes only what spec/10_state.md lists it for. -/
theorem Effect.writersOnly (h : Effect i s u) : WritersOnly (some i) s u := by
  refine { reg := fun r => ?reg, cfg := ?_, keys := ?_, mem := ?_, i := ?_, sp := ?_, stack := ?_, disp := ?_, drawPending := ?_ }
  case reg =>
    cases hr : writesReg i r with
    | false => exact .inl (h.reg_eq r hr)
    | true => exact .inr ⟨i, rfl, hr⟩
  all_goals
    cases i with
    | ret | call | drw | ldBcd | storeRegs | loadRegs => obtain ⟨-, rfl⟩ := h; simp
    | skp | sknp => obtain ⟨b, -, rfl⟩ := h; simp
    | ldVxKey => obtain ⟨k, -, rfl⟩ | ⟨-, rfl⟩ := h <;> simp
    | _ => obtain rfl := h; simp

/-- 00E0 and DXYN that have their effect raise draw-pending (R31). -/
theorem Effect.drawPending_of_draws (h : Effect i s u) (hi : i = .cls ∨ ∃ x y n, i = .drw x y n) : u.drawPending = true := by
  obtain rfl | ⟨x, y, n, rfl⟩ := hi
  · obtain rfl := h
    rfl
  · obtain ⟨-, rfl⟩ := h
    rfl

/-! ### What a running step does -/

/-- A cause's condition does not read the status. -/
theorem FatalCause.holdsIn_setStatus (c : FatalCause) (x : Status) : c.holdsIn (s.setStatus x) ↔ c.holdsIn s := by
  cases c <;> rfl

/-- A refused fetch leaves a truthful record (R70, R122). -/
theorem truthful_of_fetchFaults (hf : s.fetchFaults = true) :
    FatalRecord.truthful { cause := .fetchOutOfRange s.pc, pc := s.pc, op := none } s :=
  ⟨rfl, ⟨rfl, State.fetchFaults_iff.1 hf⟩, rfl⟩

/-- A fatal error an instruction raises leaves a truthful record (R120, R122). -/
theorem truthful_of_raisedBy {c : FatalCause} (hr : c.raisedBy i = true) (hc : c.holdsIn s) :
    FatalRecord.truthful { cause := c, pc := s.pc, op := some (encode i) } s :=
  ⟨rfl, hc, i, decode_encode i, hr⟩

/-- A step of a machine that is not halted halts it with a truthful record and changes nothing else, passes over an unknown word, or has
the effect of the instruction it fetched. -/
theorem State.runs_cases (h : s.runs t) :
    (∃ rec : FatalRecord, rec.truthful s ∧ t = s.setStatus (.halted rec)) ∨
    (s.fetchFaults = false ∧ decode s.fetchWord = none ∧ t = ((s.setStatus .running).skipUnknown s.fetchWord).finish) ∨
    (s.fetchFaults = false ∧
      ∃ i u, decode s.fetchWord = some i ∧ Effect i (s.setStatus .running) u ∧ t = u.finish) := by
  obtain ⟨hrun, hstep⟩ := h
  obtain ⟨hh, -⟩ | ⟨-, hf, rfl⟩ | ⟨-, hf, hd, rfl⟩ | ⟨-, hf, i, u, hd, hu, rfl⟩ := step_cases hstep
  · simp [hh] at hrun
  · exact .inl ⟨_, truthful_of_fetchFaults hf, rfl⟩
  · exact .inr (.inl ⟨hf, hd, rfl⟩)
  · obtain ⟨c, rfl, hr, hc, -⟩ | he := exec_cases hu
    · exact .inl ⟨_, truthful_of_raisedBy hr ((c.holdsIn_setStatus _).1 hc), rfl⟩
    · exact .inr (.inr ⟨hf, i, u, hd, he, rfl⟩)

/-- A running step writes only what spec/10_state.md lists its word for. -/
theorem State.runs_writersOnly (h : s.runs t) : WritersOnly (decode s.fetchWord) s t := by
  obtain ⟨rec, -, rfl⟩ | ⟨-, -, rfl⟩ | ⟨-, i, u, hd, he, rfl⟩ := State.runs_cases h
  · exact .setStatus _
  · exact .finish (.skipUnknown _)
  · exact .finish (hd ▸ he.writersOnly)

/-! ### The statements -/

/-- Settles O43: the frame buffer's writers of a step, and the fields a host action other than a restart keeps. -/
theorem displayWriters : Obligations.DisplayWriters := by
  refine ⟨fun s t h hne => (State.runs_writersOnly h).disp.resolve_left hne, fun s a ha => ?_⟩
  cases a with
  | restart => exact absurd rfl ha
  | setKey | clearDrawPending | provideRnd => rfl

/-- Settles O44: draw-pending is kept or raised by its writers alone, a completed 00E0 or DXYN has the effect that raises it, and the host's
actions are gone through one by one. -/
theorem drawPendingRaisedAndKept : Obligations.DrawPendingRaisedAndKept := by
  refine ⟨fun s t h => ⟨fun hs => ?kept, fun ht _ hd => ?raised, fun hne => ?writers⟩, fun s a hne => ?host, rfl⟩
  case kept =>
    obtain heq | ⟨ht, -⟩ := (State.runs_writersOnly h).drawPending
    · exact heq.trans hs
    · exact ht
  case raised =>
    obtain ⟨rec, -, rfl⟩ | ⟨-, hnone, -⟩ | ⟨-, i, u, hi, he, rfl⟩ := State.runs_cases h
    · cases ht
    · simp [hnone] at hd
    · simpa using he.drawPending_of_draws (by simpa [hi] using hd)
  case writers => exact ((State.runs_writersOnly h).drawPending.resolve_left hne).2
  case host =>
    cases a with
    | clearDrawPending => exact .inl rfl
    | restart => exact .inr rfl
    | setKey | provideRnd => exact absurd rfl hne

/-- Settles O45: I's line of the writers of a running step. -/
theorem indexWriters : Obligations.IndexWriters := fun _ _ h hne => (State.runs_writersOnly h).i.resolve_left hne

/-- Settles O46: the call stack's two lines of the writers of a running step. -/
theorem callStackWriters : Obligations.CallStackWriters := fun _ _ h =>
  ⟨(State.runs_writersOnly h).sp.resolve_left, (State.runs_writersOnly h).stack.resolve_left⟩

/-- Settles O48: the register file's line of the writers of a running step. -/
theorem registerWriters : Obligations.RegisterWriters := fun _ _ r h hne => ((State.runs_writersOnly h).reg r).resolve_left hne

/-- Settles O49: a halted machine's step is none, and a running one's writes neither piece. -/
theorem engineNeverWritesKeysOrConfig : Obligations.EngineNeverWritesKeysOrConfig := by
  intro s t h
  cases hh : s.isHalted with
  | true =>
    rw [step_halted hh] at h
    cases h
    exact ⟨rfl, rfl⟩
  | false =>
    have hw := State.runs_writersOnly ⟨hh, h⟩
    exact ⟨hw.keys, hw.cfg⟩

end Sys2Proof.Machine
end

section
/-!
PROOFS. The invariant (spec/10_state.md R21; spec/60_exceptions.md R120, R121): where PC can go, what an effect leaves in memory and in the
call stack, and that a halted machine's record is truthful.
-/

namespace Sys2Proof.Machine

variable {s t u : State} {i : Instr}

/-! ### PC after an instruction -/

theorem zext16_toNat (nnn : BitVec 12) : (zext16 nnn).toNat = nnn.toNat := by
  have := nnn.isLt
  simp only [zext16, BitVec.toNat_setWidth]
  omega

/-- The target of BNNN is not reduced (R92). -/
theorem State.offsetTarget_toNat (nnn : BitVec 12) : (s.offsetTarget nnn).toNat = nnn.toNat + (s.reg 0).toNat := by
  have := nnn.isLt
  have := (s.reg 0).isLt
  simp only [State.offsetTarget, zext16, BitVec.toNat_add, BitVec.toNat_setWidth]
  omega

theorem State.skipIf_pc_cases (c : Bool) : (s.skipIf c).pc = s.pc + 2 ∨ (s.skipIf c).pc = s.pc + 4 := by
  cases c
  · exact .inl rfl
  · exact .inr rfl

/-- An effect moves PC as the "PC update" column of R60 says. -/
theorem Effect.pcAfter (h : Effect i s u) : s.pcAfter u.pc i := by
  cases i with
  | ret =>
    obtain ⟨hpos, rfl⟩ := h
    exact ⟨⟨s.sp.val - 1, by omega⟩, (Nat.sub_add_cancel hpos).symm, rfl⟩
  | jp nnn =>
    obtain rfl := h
    exact zext16_toNat nnn
  | call nnn =>
    obtain ⟨-, rfl⟩ := h
    exact zext16_toNat nnn
  | jpV0 nnn =>
    obtain rfl := h
    exact State.offsetTarget_toNat nnn
  | seImm | sneImm | seReg | sneReg =>
    obtain rfl := h
    exact State.skipIf_pc_cases _
  | skp | sknp =>
    obtain ⟨b, -, rfl⟩ := h
    exact State.skipIf_pc_cases _
  | ldVxKey =>
    obtain ⟨k, hk, rfl⟩ | ⟨hnone, rfl⟩ := h
    · exact .inl ⟨⟨k, (s.firstKey_spec hk).1⟩, rfl⟩
    · exact .inr ⟨s.firstKey_eq_none.1 hnone, rfl⟩
  | addReg | sub | shr | subn | shl =>
    obtain rfl := h
    simp [State.pcAfter]
  | drw =>
    obtain ⟨-, rfl⟩ := h
    rfl
  | ldBcd | storeRegs | loadRegs =>
    obtain ⟨-, rfl⟩ := h
    simp [State.pcAfter]
  | _ =>
    obtain rfl := h
    rfl

/-- Advancing or skipping past an address below 4095 stays within R21's bound. -/
theorem add_toNat_le_maxPc {a d : Word} (ha : a.toNat < 4095) (hd : d.toNat ≤ 4) : (a + d).toNat ≤ maxPc := by
  rw [BitVec.toNat_add]
  unfold maxPc
  omega

/-- From a PC that was fetched from and a stack within R21's bound, no instruction moves PC above that bound. -/
theorem State.pcAfter_le {pc : Word} (h : s.pcAfter pc i) (hpc : s.pc.toNat < 4095)
    (hstack : ∀ k : Fin 16, (s.stack[k.val]).toNat ≤ maxPc) : pc.toNat ≤ maxPc := by
  have hsmall : ∀ d : Word, d.toNat ≤ 4 → (s.pc + d).toNat ≤ maxPc := fun _ => add_toNat_le_maxPc hpc
  cases i with
  | ret =>
    obtain ⟨k, -, rfl⟩ := h
    exact hstack k
  | jp nnn | call nnn =>
    have := nnn.isLt
    rw [show pc.toNat = nnn.toNat from h]
    unfold maxPc
    omega
  | jpV0 nnn =>
    have := nnn.isLt
    have := (s.reg 0).isLt
    rw [show pc.toNat = nnn.toNat + (s.reg 0).toNat from h]
    unfold maxPc
    omega
  | seImm | sneImm | seReg | sneReg | skp | sknp =>
    obtain rfl | rfl := h
    · exact hsmall 2 (by decide)
    · exact hsmall 4 (by decide)
  | ldVxKey =>
    obtain ⟨-, rfl⟩ | ⟨-, rfl⟩ := h
    · exact hsmall 2 (by decide)
    · unfold maxPc
      omega
  | _ =>
    obtain rfl := h
    exact hsmall 2 (by decide)

/-! ### The invariant -/

/-- A machine that is not halted has no record, so its invariant is the bounds on memory, PC and the call stack. -/
theorem State.Inv.of_running (hrun : t.isHalted = false) (hmem : t.mem.wf t.cfg = true) (hpc : t.pc.toNat ≤ maxPc)
    (hstack : ∀ k : Fin 16, (t.stack[k.val]).toNat ≤ maxPc) : t.Inv :=
  ⟨hmem, hpc, hstack, fun rec hrec => absurd hrec ((t.isHalted_false_iff).1 hrun rec)⟩

/-- Halting with a truthful record keeps the invariant (R121). -/
theorem State.Inv.halt {rec : FatalRecord} (hi : s.Inv) (hrec : rec.truthful s) : (s.setStatus (.halted rec)).Inv where
  memory := hi.memory
  pc := hi.pc
  stack := hi.stack
  halted := by
    obtain ⟨hpc, hc, hop⟩ := hrec
    rintro _ ⟨⟩
    exact ⟨hpc, (rec.cause.holdsIn_setStatus _).2 hc, hop⟩

/-- An effect keeps memory canonical: its stores are range-checked. -/
theorem Effect.mem_wf (h : Effect i s u) (hw : s.mem.wf s.cfg = true) : u.mem.wf u.cfg = true := by
  obtain hmem | ⟨x, hx⟩ | ⟨x, hx⟩ := h.writersOnly.mem
  · rwa [hmem, h.writersOnly.cfg]
  all_goals
    cases hx
    obtain ⟨hr, rfl⟩ := h
    rw [s.inRange_iff] at hr
    simpa using s.writeBytes_wf _ _ hw (by simpa [memSize] using hr)

/-- An effect keeps every call-stack entry within R21's bound: 2NNN pushes the address past a word that was fetched. -/
theorem Effect.stack_le (h : Effect i s u) (hpc : s.pc.toNat < 4095) (hstack : ∀ k : Fin 16, (s.stack[k.val]).toNat ≤ maxPc)
    (k : Fin 16) : (u.stack[k.val]).toNat ≤ maxPc := by
  obtain heq | ⟨nnn, hcall⟩ := h.writersOnly.stack
  · simpa [heq] using hstack k
  · cases hcall
    obtain ⟨hlt, rfl⟩ := h
    simp only [Vector.getElem_set]
    split
    · exact add_toNat_le_maxPc hpc (by decide)
    · exact hstack k

/-- An instruction that has its effect leaves a running machine running. -/
theorem Effect.running (h : Effect i s u) (hrun : s.isHalted = false) : u.isHalted = false := by
  cases i with
  | ret | call => obtain ⟨-, rfl⟩ := h; exact hrun
  | skp | sknp => obtain ⟨b, -, rfl⟩ := h; exact hrun
  | ldVxKey => obtain ⟨k, -, rfl⟩ | ⟨-, rfl⟩ := h <;> rfl
  | drw => obtain ⟨-, rfl⟩ := h; exact hrun
  | ldBcd | storeRegs | loadRegs => obtain ⟨-, rfl⟩ := h; simpa [State.isHalted] using hrun
  | addReg | sub | shr | subn | shl => obtain rfl := h; simpa [State.isHalted] using hrun
  | _ => obtain rfl := h; exact hrun

/-- A fetch below FETCH_LIMIT is below 4095, whatever the configuration. -/
theorem State.pc_lt_of_fetches (hf : s.fetchFaults = false) : s.pc.toNat < 4095 := by
  have := s.cfg.fetchLimit.isLt
  have := State.fetchFaults_false_iff.1 hf
  omega

/-- The end of a step keeps the invariant: the timers and the random port are no part of it. -/
theorem State.Inv.finish (hi : s.Inv) : s.finish.Inv := by
  cases hh : s.isHalted with
  | true => rwa [State.finish_of_halted hh]
  | false =>
    exact .of_running (by simpa) (by simpa using hi.memory) (by simpa using hi.pc) (by simpa using hi.stack)

/-- Passing over an unknown word that was fetched keeps the invariant. -/
theorem State.Inv.skipUnknown (hi : s.Inv) (hpc : s.pc.toNat < 4095) (op : Word) :
    ((s.setStatus .running).skipUnknown op).Inv :=
  .of_running rfl hi.memory (add_toNat_le_maxPc hpc (by decide)) hi.stack

/-- The effect of an instruction that was fetched keeps the invariant. -/
theorem State.Inv.effect (hi : s.Inv) (hpc : s.pc.toNat < 4095) (h : Effect i (s.setStatus .running) u) : u.Inv :=
  .of_running (h.running rfl) (h.mem_wf hi.memory) (State.pcAfter_le h.pcAfter hpc hi.stack) (h.stack_le hpc hi.stack)

/-- Settles O56: nothing is stored, PC is PROGRAM_BASE, every entry is 0 and the status is RUNNING. -/
theorem resetMeetsInvariant : Obligations.ResetMeetsInvariant where
  memory := State.initial_wf defaultConfig
  pc := by decide
  stack := by decide
  halted := by simp [State.reset]

/-- Settles O57: a step of a running machine halts with a truthful record, passes over a word below FETCH_LIMIT, or has an effect, and each
keeps the parts of the invariant. -/
theorem stepKeepsInvariant : Obligations.StepKeepsInvariant := by
  intro s t hi h
  cases hh : s.isHalted with
  | true =>
    rw [step_halted hh] at h
    cases h
    exact hi
  | false =>
    obtain ⟨rec, hrec, rfl⟩ | ⟨hf, -, rfl⟩ | ⟨hf, i, u, -, he, rfl⟩ := State.runs_cases ⟨hh, h⟩
    · exact hi.halt hrec
    · exact (hi.skipUnknown (State.pc_lt_of_fetches hf) _).finish
    · exact (hi.effect (State.pc_lt_of_fetches hf) he).finish

end Sys2Proof.Machine
end

section
/-!
PROOFS. Memory (spec/20_memory.md R42, R46, R49): which bytes a step stores to, and that bytes stored by FX55 are fetched as an opcode.
-/

namespace Sys2Proof.Machine

variable {s t u : State} {i : Instr} {a : Nat}

/-! ### The writers of memory -/

/-- A byte that a range-checked store at I changed is one of those it stored to, and within memory (R43). -/
theorem State.range_of_store_read_ne {bs : List Byte} (hr : s.inRange bs.length = true)
    (hne : (s.writeBytes s.i.toNat bs).readByte a ≠ s.readByte a) :
    s.i.toNat ≤ a ∧ a ≤ 4095 ∧ a < s.i.toNat + bs.length := by
  have hin : s.i.toNat ≤ a ∧ a < s.i.toNat + bs.length := by
    by_contra hout
    exact hne (s.writeBytes_read_outside _ bs (by omega))
  rw [State.inRange_iff] at hr
  omega

/-- An effect that changes a byte of memory is a store of FX33 or FX55 to it, within memory (R42). -/
theorem Effect.stores_of_readByte_ne (h : Effect i s u) (hne : u.readByte a ≠ s.readByte a) :
    s.i.toNat ≤ a ∧ a ≤ 4095 ∧
      ((∃ x, i = .ldBcd x ∧ a ≤ s.i.toNat + 2) ∨ ∃ x, i = .storeRegs x ∧ a ≤ s.i.toNat + x.val) := by
  obtain hmem | ⟨x, ⟨⟩⟩ | ⟨x, ⟨⟩⟩ := h.writersOnly.mem
  · exact absurd (by simp only [State.readByte, hmem, h.writersOnly.cfg]) hne
  · obtain ⟨hr, rfl⟩ := h
    obtain ⟨hlo, htop, hhi⟩ := State.range_of_store_read_ne hr hne
    exact ⟨hlo, htop, .inl ⟨x, rfl, Nat.le_of_lt_succ hhi⟩⟩
  · obtain ⟨hr, rfl⟩ := h
    obtain ⟨hlo, htop, hhi⟩ := State.range_of_store_read_ne (by simpa using hr) hne
    rw [State.length_regsBytes] at hhi
    exact ⟨hlo, htop, .inr ⟨x, rfl, Nat.le_of_lt_succ hhi⟩⟩

/-- Settles O47: a fatal step and an unknown word leave every byte as it is, and an effect changes only the bytes it stores to. -/
theorem memoryWriters : Obligations.MemoryWriters := by
  intro s t a h hne
  obtain ⟨rec, -, rfl⟩ | ⟨-, -, rfl⟩ | ⟨-, i, u, hd, he, rfl⟩ := State.runs_cases h
  · exact absurd (State.setStatus_readByte ..) hne
  · exact absurd (by simp [State.skipUnknown]) hne
  · simpa [hd] using he.stores_of_readByte_ne (by simpa using hne)

/-! ### Stored bytes as an opcode -/

/-- The byte at the lower address is the high one of the opcode a fetch forms (R46). -/
theorem State.fetchWord_toNat (s : State) :
    s.fetchWord.toNat = 256 * (s.readByte s.pc.toNat).toNat + (s.readByte (s.pc.toNat + 1)).toNat := by
  have := (s.readByte s.pc.toNat).isLt
  have := (s.readByte (s.pc.toNat + 1)).isLt
  rw [State.fetchWord, opcodeOfBytes, BitVec.toNat_ofNat]
  omega

/-- FX55 with its bytes in memory (R111). -/
theorem execStoreRegs_of_le {x : Nibble} (h : s.i.toNat + x.val ≤ 4095) :
    execStoreRegs x s = .next (s.writeBytes s.i.toNat (s.regsBytes x)).advance := by
  rw [execStoreRegs, State.storeAtI_of_inRange]
  rw [State.inRange_iff, State.length_regsBytes]
  omega

/-- Canonical memory reads back each register that FX55 stored (R111). -/
theorem State.writeBytes_regsBytes_read {x r : Nibble} (hw : s.mem.wf s.cfg = true) (h : s.i.toNat + x.val ≤ 4095) (hr : r ≤ x) :
    (s.writeBytes s.i.toNat (s.regsBytes x)).readByte (s.i.toNat + r.val) = s.reg r := by
  have hend : s.i.toNat + (s.regsBytes x).length ≤ memSize := by
    rw [State.length_regsBytes]
    unfold memSize
    omega
  have hlen : r.val < (s.regsBytes x).length := by
    rw [State.length_regsBytes]
    exact Nat.lt_succ_of_le hr
  rw [s.writeBytes_read_inside _ _ hw hend _ hlen, State.getElem_regsBytes, Fin.ofNat_val_eq_self]

/-- Settles O25: the fetch at I + r reads back V[r] and V[r + 1], which FX55 stored there. -/
theorem storedOpcodeIsFetched : Obligations.StoredOpcodeIsFetched := by
  intro x r s t hw hx hr ht
  have hlt : r.val < x.val := hr
  have hpc : (s.i + BitVec.ofNat 16 r.val).toNat = s.i.toNat + r.val := by
    rw [BitVec.toNat_add, BitVec.toNat_ofNat]
    omega
  have hsucc : (r + 1).val = r.val + 1 := by
    rw [Fin.val_add]
    omega
  have hhi := State.writeBytes_regsBytes_read hw hx (Fin.le_of_lt hr)
  have hlo := State.writeBytes_regsBytes_read (r := r + 1) hw hx (show (r + 1).val ≤ x.val by omega)
  rw [hsucc, ← Nat.add_assoc] at hlo
  rw [exec, execStoreRegs_of_le hx] at ht
  cases ht
  simp [State.fetchWord_toNat, hpc, hhi, hlo]

end Sys2Proof.Machine
end

section
/-!
PROOFS. The decoder and the encoder are inverse, the decoder agrees with the opcode map, and the unknown words are those of the table of
the unknown space (spec/30_encoding.md R56 to R64).
-/

namespace Sys2Proof

variable {op : Word} {i : Instr} {r₁ r₂ : OpcodeRow}

/-- Settles O50: the opcode's fields are the operands, and its family and low bits select the instruction. -/
theorem decodeEncode : Obligations.DecodeEncode := decode_encode

/-! ### A word is made of its fields -/

section Fields

variable {h : Nat} (hh : opH op = h)
include hh

theorem encodeNNN_fields : encodeNNN h (opNNN op) = op := by
  have := op.isLt
  apply BitVec.eq_of_toNat_eq
  rw [opH_eq] at hh
  rw [encodeNNN_toNat (by omega), opNNN_toNat]
  omega

theorem encodeXNN_fields {nn : Byte} (hnn : bitField op 7 0 = nn.toNat) : encodeXNN h (opX op) nn = op := by
  have := op.isLt
  apply BitVec.eq_of_toNat_eq
  rw [opH_eq] at hh
  rw [lowByte_eq] at hnn
  rw [encodeXNN_toNat (by omega), opX_val]
  omega

theorem encodeXNN_opNN : encodeXNN h (opX op) (opNN op) = op :=
  encodeXNN_fields hh (by rw [lowByte_eq, opNN_toNat])

theorem encodeXYN_fields {n : Nibble} (hn : (opN op).val = n.val) : encodeXYN h (opX op) (opY op) n = op := by
  have := op.isLt
  apply BitVec.eq_of_toNat_eq
  rw [opH_eq] at hh
  rw [opN_val] at hn
  rw [encodeXYN_toNat (by omega), opX_val, opY_val]
  omega

end Fields

/-- Settles O51: the family and its second level give the fixed bits, and the operands are the other fields. -/
theorem encodeDecode : Obligations.EncodeDecode := by
  intro op i hd
  unfold decode at hd
  -- case `h_k` is the arm of family `k - 1`
  split at hd <;> rename_i hh
  case h_1 =>
    unfold decodeFamily0 at hd
    split_ifs at hd with hcls hret <;> cases hd
    · exact hcls.symm
    · exact hret.symm
  case h_6 | h_10 =>
    simp only [decodeFamily5, decodeFamily9] at hd
    split_ifs at hd with hn
    cases hd
    exact encodeXYN_fields hh (congrArg Fin.val hn)
  case h_9 =>
    unfold decodeFamily8 at hd
    split at hd <;> cases hd
    all_goals exact encodeXYN_fields hh ‹_›
  case h_15 | h_16 =>
    simp only [decodeFamilyE, decodeFamilyF] at hd
    split at hd <;> cases hd
    all_goals exact encodeXNN_fields hh ‹_›
  all_goals cases hd
  case h_2 | h_3 | h_11 | h_12 => exact encodeNNN_fields hh
  case h_14 => exact encodeXYN_fields hh rfl
  all_goals exact encodeXNN_opNN hh

/-! ### The unknown space -/

theorem decodeFamily0_eq_none : decodeFamily0 op = none ↔ op.toNat ≠ 0x00E0 ∧ op.toNat ≠ 0x00EE := by
  simp only [decodeFamily0, BitVec.toNat_eq]
  split_ifs <;> simp_all

theorem decodeFamily5_eq_none : decodeFamily5 op = none ↔ op.toNat % 16 ≠ 0 := by
  simp [decodeFamily5, Fin.ext_iff, opN_val]

theorem decodeFamily8_eq_none :
    decodeFamily8 op = none ↔ op.toNat % 16 ∈ [0x8, 0x9, 0xA, 0xB, 0xC, 0xD, 0xF] := by
  have : op.toNat % 16 < 16 := Nat.mod_lt _ (by decide)
  rw [← opN_val] at *
  unfold decodeFamily8
  split <;> simp_all
  omega

theorem decodeFamily9_eq_none : decodeFamily9 op = none ↔ op.toNat % 16 ≠ 0 := by
  simp [decodeFamily9, Fin.ext_iff, opN_val]

theorem decodeFamilyE_eq_none : decodeFamilyE op = none ↔ op.toNat % 256 ∉ [0x9E, 0xA1] := by
  rw [← lowByte_eq]
  unfold decodeFamilyE
  split <;> simp_all

theorem decodeFamilyF_eq_none :
    decodeFamilyF op = none ↔ op.toNat % 256 ∉ [0x07, 0x0A, 0x15, 0x18, 0x1E, 0x29, 0x33, 0x55, 0x65] := by
  rw [← lowByte_eq]
  unfold decodeFamilyF
  split <;> simp_all

/-- Settles O53: the six families with a second level leave the words unknown that it does not select, and the ten others none. -/
theorem unknownWords : Obligations.UnknownWords := by
  intro op
  rw [← opH_eq]
  unfold decode
  -- case `h_k` is the arm of family `k - 1`; `h_17` would be a family above F
  split <;> rename_i hh
  case h_1 => simp [hh, decodeFamily0_eq_none]
  case h_6 => simp [hh, decodeFamily5_eq_none]
  case h_9 => simp [hh, decodeFamily8_eq_none]
  case h_10 => simp [hh, decodeFamily9_eq_none]
  case h_15 => simp [hh, decodeFamilyE_eq_none]
  case h_16 => simp [hh, decodeFamilyF_eq_none]
  case h_17 =>
    have := op.isLt
    have := opH_eq op
    simp only [imp_false] at *
    omega
  all_goals simp [hh]

/-! ### The opcode map -/

theorem Instr.row_mem_opcodeTable (i : Instr) : i.row ∈ opcodeTable := by
  cases i <;> simp [Instr.row, opcodeTable, opcodeTableLow, opcodeTableMid, opcodeTableHigh]

open Laws.FitsRow in
theorem Instr.row_matches_encode (i : Instr) : i.row.matches (encode i) = true := by
  cases i with
  | cls | ret => rfl
  | jp | call | ldI | jpV0 => exact fits_nnn (by decide) _ _ rfl
  | seImm | sneImm | ldImm | addImm | rnd => exact fits_xnn (by decide) _ _ _ rfl
  | drw => exact fits_xyn (by decide) _ _ _ _ rfl
  | seReg | ldReg | orReg | andReg | xorReg | addReg | sub | shr | subn | shl | sneReg => exact fits_xy (by decide) _ _ _ _ rfl
  | _ => exact fits_x (by decide) _ _ _ rfl

/-- Two rows that match one word agree in the bits that both fix. -/
theorem OpcodeRow.bits_agree (h₁ : r₁.matches op = true) (h₂ : r₂.matches op = true) :
    r₁.bits &&& r₂.mask = r₂.bits &&& r₁.mask := by
  simp only [OpcodeRow.matches, beq_iff_eq] at h₁ h₂
  rw [← h₁, ← h₂]
  ac_rfl

/-- Any two of the 34 rows differ in a bit that both fix (R60). -/
theorem opcodeTable_pairwise_bits_differ :
    opcodeTable.Pairwise fun r₁ r₂ => r₁.bits &&& r₂.mask ≠ r₂.bits &&& r₁.mask := by
  decide

theorem opcodeTable_pairwise_disjoint (op : Word) :
    opcodeTable.Pairwise fun r₁ r₂ => ¬ (r₁.matches op = true ∧ r₂.matches op = true) :=
  opcodeTable_pairwise_bits_differ.imp fun hne ⟨h₁, h₂⟩ => hne (OpcodeRow.bits_agree h₁ h₂)

theorem OpcodeRow.matches_iff {mask bits : Word} :
    (OpcodeRow.mk mask bits).matches op = true ↔ (op &&& mask).toNat = bits.toNat := by
  simp [OpcodeRow.matches, BitVec.toNat_eq]

theorem opH_of_matches_F000 {bits : Word} (hm : (OpcodeRow.mk 0xF000 bits).matches op = true) : opH op = bits.toNat / 4096 := by
  rw [OpcodeRow.matches_iff, and_F000_toNat] at hm
  rw [opH_eq]
  omega

theorem fields_of_matches_F00F {bits : Word} (hm : (OpcodeRow.mk 0xF00F bits).matches op = true) :
    opH op = bits.toNat / 4096 ∧ (opN op).val = bits.toNat % 16 := by
  rw [OpcodeRow.matches_iff, and_F00F_toNat] at hm
  rw [opH_eq, opN_val]
  omega

theorem fields_of_matches_F0FF {bits : Word} (hm : (OpcodeRow.mk 0xF0FF bits).matches op = true) :
    opH op = bits.toNat / 4096 ∧ bitField op 7 0 = bits.toNat % 256 := by
  rw [OpcodeRow.matches_iff, and_F0FF_toNat] at hm
  rw [opH_eq, lowByte_eq]
  omega

/-- A word that matches an instruction's row decodes to an instruction of that row: the fixed bits are all that either level reads. -/
theorem decode_row_of_matches (hm : i.row.matches op = true) : (decode op).map Instr.row = some i.row := by
  cases i with
  | cls | ret =>
    obtain rfl : op = _ := (and_FFFF_eq op).symm.trans (eq_of_beq hm)
    rfl
  | jp | call | seImm | sneImm | ldImm | addImm | ldI | jpV0 | rnd | drw =>
    simp [decode, opH_of_matches_F000 hm, Instr.row]
  | seReg =>
    obtain ⟨hh, hn⟩ := fields_of_matches_F00F hm
    simp [decode, hh, decodeFamily5, Fin.ext_iff, hn, Instr.row]
  | ldReg | orReg | andReg | xorReg | addReg | sub | shr | subn | shl =>
    obtain ⟨hh, hn⟩ := fields_of_matches_F00F hm
    simp [decode, hh, decodeFamily8, hn, Instr.row]
  | sneReg =>
    obtain ⟨hh, hn⟩ := fields_of_matches_F00F hm
    simp [decode, hh, decodeFamily9, Fin.ext_iff, hn, Instr.row]
  | skp | sknp =>
    obtain ⟨hh, hnn⟩ := fields_of_matches_F0FF hm
    simp [decode, hh, decodeFamilyE, hnn, Instr.row]
  | ldVxDt | ldVxKey | ldDtVx | ldStVx | addI | ldFont | ldBcd | storeRegs | loadRegs =>
    obtain ⟨hh, hnn⟩ := fields_of_matches_F0FF hm
    simp [decode, hh, decodeFamilyF, hnn, Instr.row]

/-- Each row's match word, whose operand fields are all 0, decodes to an instruction of that row. -/
theorem decode_bits_row : ∀ row ∈ opcodeTable, (decode row.bits).map Instr.row = some row := by
  decide

/-- Settles O52: a word that decodes is its instruction's opcode, which fits that instruction's row; the fixed bits of a row select one of its
instructions; and any two rows fix some bit differently. -/
theorem decodeFollowsOpcodeMap : Obligations.DecodeFollowsOpcodeMap := by
  refine ⟨rfl, fun op => ⟨fun i hd => ⟨i.row_mem_opcodeTable, ?fits⟩, fun row hrow hm => ?decodes, opcodeTable_pairwise_disjoint op⟩⟩
  case fits =>
    rw [← encodeDecode op i hd]
    exact i.row_matches_encode
  case decodes =>
    obtain ⟨i, -, rfl⟩ := Option.map_eq_some_iff.1 (decode_bits_row row hrow)
    exact Option.map_eq_some_iff.1 (decode_row_of_matches hm)

/-- Settles O54: each word evaluates to its instruction. -/
theorem sampleWordsDecode : Obligations.SampleWordsDecode := by
  unfold Obligations.SampleWordsDecode
  decide

end Sys2Proof
end

section
/-!
PROOFS. PC after a step (spec/30_encoding.md R60; spec/40_engine.md R74, R78).
-/

namespace Sys2Proof.Machine

variable {s : State} {i : Instr}

/-- The "PC update" column does not read the status. -/
theorem State.pcAfter_setStatus (x : Status) (pc : Word) : (s.setStatus x).pcAfter pc i ↔ s.pcAfter pc i := by
  cases i <;> rfl

/-- Settles O40: a running step that raises no fatal error passes over an unknown word or has the effect of its instruction, and the end of
the step keeps PC. -/
theorem pcUpdates : Obligations.PcUpdates := by
  intro s t h ht
  obtain ⟨rec, -, rfl⟩ | ⟨-, hnone, rfl⟩ | ⟨-, j, u, hj, he, rfl⟩ := State.runs_cases h
  · cases ht
  · exact ⟨fun _ => by simp [State.skipUnknown], fun i hi => by simp [hnone] at hi⟩
  · refine ⟨fun hnone => by simp [hj] at hnone, fun i hi => ?_⟩
    obtain rfl : j = i := Option.some.inj (hj.symm.trans hi)
    rw [State.finish_pc]
    exact (State.pcAfter_setStatus _ _).1 he.pcAfter

end Sys2Proof.Machine
end

section
/-!
PROOFS. The engine (spec/40_engine.md R69 to R79): that every step answers, that a halted machine stays as it is, and the timers and the
status after a step.
-/

namespace Sys2Proof.Machine

variable {s t u : State} {i : Instr}

/-! ### Encodings and the register frame -/

section Encoding

variable {h : Nat} {x : Nibble} {nn : Byte} {mask bits : Word}

/-- An opcode of layout `xnn` is its row's bits plus X and NN (R56). -/
theorem hasEncoding_xnn (hh : h < 16) (he : encode i = encodeXNN h x nn) (hrow : i.row = ⟨mask, bits⟩) (hbits : bits.toNat = h * 4096) :
    hasEncoding i mask bits (256 * x.val + nn.toNat) := by
  refine ⟨?_, hrow⟩
  rw [he, encodeXNN_toNat hh, hbits]
  omega

/-- An opcode of layout `x` is its row's bits, the fixed low byte among them, plus X (R56). -/
theorem hasEncoding_x (hh : h < 16) (he : encode i = encodeXNN h x nn) (hrow : i.row = ⟨mask, bits⟩)
    (hbits : bits.toNat = h * 4096 + nn.toNat) : hasEncoding i mask bits (256 * x.val) := by
  refine ⟨?_, hrow⟩
  rw [he, encodeXNN_toNat hh, hbits]
  omega

end Encoding

/-- One register written and PC past the instruction. -/
theorem State.regFrame_setReg_advance (s : State) (x : Nibble) (b : Byte) : s.regFrame (s.setReg x b).advance [x] :=
  ⟨rfl, fun _ hr => State.setReg_reg_other s b (by simpa using hr), fun _ => rfl⟩

/-! ### What a step answers -/

/-- Every branch of every instruction is a next state, the fatal errors among them. -/
theorem exec_next (i : Instr) (s : State) : ∃ u, exec i s = .next u := by
  cases i with
  | ret | call | drw | loadRegs | skp | sknp | ldVxKey =>
    simp only [exec, execRet, execCall, execDrw, execLoadRegs, execSkp, execSknp, execLdVxKey]
    split <;> exact ⟨_, rfl⟩
  | _ => exact ⟨_, rfl⟩

theorem step_next (s : State) : ∃ t, step s = .next t := by
  cases hh : s.isHalted with
  | true => exact ⟨_, step_halted hh⟩
  | false =>
    cases hf : s.fetchFaults with
    | true => exact ⟨_, step_fetchFault hh hf⟩
    | false =>
      cases hd : decode s.fetchWord with
      | none => exact ⟨_, step_unknown hh hf hd⟩
      | some i =>
        obtain ⟨u, hu⟩ := exec_next i (s.setStatus .running)
        exact ⟨_, (step_instr hh hf hd).trans (finishResult_next.2 ⟨u, hu, rfl⟩)⟩

/-- Settles O35: each instruction and each case of a step answers a next state. -/
theorem everyStepAnswersNext : Obligations.EveryStepAnswersNext := ⟨exec_next, step_next⟩

/-- Settles O31: the word of the statement is the fetched one. -/
theorem stepRunsDecodedInstruction : Obligations.StepRunsDecodedInstruction := by
  intro i s hh hpc hd
  rw [← s.fetchWord_toNat, BitVec.ofNat_toNat, BitVec.setWidth_eq] at hd
  exact step_instr hh (State.fetchFaults_false_iff.2 hpc) hd

/-- Settles O32: the case of a step that fetches an unknown word. -/
theorem unknownOpcodeReportedAndSkipped : Obligations.UnknownOpcodeReportedAndSkipped := fun _ hh hpc hd =>
  ⟨_, step_unknown hh (State.fetchFaults_false_iff.2 hpc) hd, rfl, tickByte_toNat _, tickByte_toNat _, rfl⟩

/-- Settles O33: the case of a step whose fetch is refused. -/
theorem fetchLimitIsFatal : Obligations.FetchLimitIsFatal :=
  ⟨rfl, fun _ hh hpc => step_fetchFault hh (State.fetchFaults_iff.2 hpc)⟩

/-! ### A halted machine -/

/-- A machine whose step leaves a state as it is stays there for any number of steps. -/
theorem core_run_of_step_self (M : Host.Core) {x : M.State} (h : M.step x = .next x) (k : Nat) : M.run k x = .next x := by
  induction k with
  | zero => rfl
  | succ k ih => rw [Host.Core.run, h]; exact ih

/-- Settles O34: a halted machine's steps, by induction on their number, and the host's actions one by one. -/
theorem haltedForever : Obligations.HaltedForever := by
  refine fun s rec hrec => ⟨core_run_of_step_self core (step_halted (s.isHalted_iff.2 ⟨rec, hrec⟩)), fun a ha => ?_, rfl⟩
  cases a with
  | restart => exact absurd rfl ha
  | setKey | clearDrawPending | provideRnd => exact hrec

/-! ### The timers and the status -/

/-- The timers and the status are the same in `u` as in `s` unless the instruction is FX15, FX18 or FX0A, and the ports are the same. -/
structure EngineWritersOnly (i : Instr) (s u : State) : Prop where
  dt : u.dt = s.dt ∨ ∃ x, i = .ldDtVx x
  st : u.st = s.st ∨ ∃ x, i = .ldStVx x
  status : u.status = s.status ∨ ∃ x, i = .ldVxKey x
  rndQueue : u.rndQueue = s.rndQueue
  rndSteps : u.rndSteps = s.rndSteps
  reports : u.reports = s.reports

theorem Effect.engineWritersOnly (h : Effect i s u) : EngineWritersOnly i s u := by
  constructor
  all_goals
    cases i with
    | ret | call | drw | ldBcd | storeRegs | loadRegs => obtain ⟨-, rfl⟩ := h; simp
    | skp | sknp => obtain ⟨b, -, rfl⟩ := h; simp
    | ldVxKey => obtain ⟨k, -, rfl⟩ | ⟨-, rfl⟩ := h <;> simp
    | _ => obtain rfl := h; simp

/-- No instruction emits a report (R124). -/
theorem exec_reports (h : exec i s = .next u) : u.reports = s.reports := by
  obtain ⟨c, rfl, -⟩ | he := exec_cases h
  · rfl
  · exact he.engineWritersOnly.reports

theorem State.finish_dt_toNat (h : s.isHalted = false) : s.finish.dt.toNat = s.dt.toNat - 1 := by
  rw [State.finish_of_running h]
  exact tickByte_toNat s.dt

theorem State.finish_st_toNat (h : s.isHalted = false) : s.finish.st.toNat = s.st.toNat - 1 := by
  rw [State.finish_of_running h]
  exact tickByte_toNat s.st

theorem State.toneOn_iff : s.toneOn = true ↔ 0 < s.st.toNat := by
  simp [State.toneOn, BitVec.toNat_eq, Nat.pos_iff_ne_zero]

/-- A step that fetches an instruction ends what the instruction answers. -/
theorem State.runs_eq_finish (h : s.runs t) (hf : s.fetchFaults = false) (hw : s.fetchWord = encode i)
    (hu : exec i (s.setStatus .running) = .next u) : t = u.finish := by
  obtain ⟨hh, hstep⟩ := h
  rw [step_instr hh hf (hw ▸ decode_encode i), hu] at hstep
  exact (Host.Outcome.next.inj hstep).symm

/-- Settles O30: each of the three instructions moves its value, and the end of the step ticks the timers after it. -/
theorem timerInstructionsInAStep : Obligations.TimerInstructionsInAStep := by
  intro x s t h hf
  refine ⟨⟨?_, ?_, ?_⟩, fun hw => ?fx07, fun hw => ?fx15, fun hw => ?fx18⟩
  case fx07 =>
    obtain rfl := State.runs_eq_finish h hf hw rfl
    exact ⟨by simp, State.finish_dt_toNat rfl⟩
  case fx15 =>
    obtain rfl := State.runs_eq_finish h hf hw rfl
    exact State.finish_dt_toNat rfl
  case fx18 =>
    obtain rfl := State.runs_eq_finish h hf hw rfl
    rw [State.toneOn_iff, State.finish_st_toNat rfl, State.advance_st, State.setSt_st, State.setStatus_reg]
    exact ⟨rfl, by omega⟩
  all_goals exact hasEncoding_x (by decide) rfl rfl rfl

/-- A running step that raises no fatal error ends a state that passed over an unknown word or has the effect of the fetched instruction. -/
theorem State.runs_going (h : s.runs t) (ht : t.isHalted = false) :
    ∃ u, u.isHalted = false ∧ t = u.finish ∧
      (decode s.fetchWord = none ∧ u = (s.setStatus .running).skipUnknown s.fetchWord ∨
        ∃ i, decode s.fetchWord = some i ∧ Effect i (s.setStatus .running) u) := by
  obtain ⟨rec, -, rfl⟩ | ⟨-, hd, rfl⟩ | ⟨-, i, u, hd, he, rfl⟩ := State.runs_cases h
  · cases ht
  · exact ⟨_, rfl, rfl, .inl ⟨hd, rfl⟩⟩
  · exact ⟨u, he.running rfl, rfl, .inr ⟨i, hd, he⟩⟩

/-- Settles O38: the end of the step ticks the value each timer has then, which only FX15 and FX18 set. -/
theorem timersTickOnceAStep : Obligations.TimersTickOnceAStep := by
  intro s t h ht
  obtain ⟨u, hu, rfl, ⟨hd, rfl⟩ | ⟨i, hd, he⟩⟩ := State.runs_going h ht <;>
    rw [hd, State.finish_dt_toNat hu, State.finish_st_toNat hu]
  · simp [State.skipUnknown]
  · refine ⟨fun x hx => ?dtWritten, fun hne => ?dtKept, fun x hx => ?stWritten, fun hne => ?stKept⟩
    case dtWritten | stWritten =>
      cases hx
      obtain rfl := he
      rfl
    case dtKept =>
      rw [he.engineWritersOnly.dt.resolve_right fun ⟨x, hx⟩ => hne x (congrArg some hx), State.setStatus_dt]
    case stKept =>
      rw [he.engineWritersOnly.st.resolve_right fun ⟨x, hx⟩ => hne x (congrArg some hx), State.setStatus_st]

/-- FX0A with no key pressed waits, and every other instruction that has its effect from status RUNNING keeps it (R79, R116). -/
theorem Effect.status_cases (h : Effect i (s.setStatus .running) u) :
    ((∃ x, i = .ldVxKey x) ∧ (∀ k, s.key k = false) ∧ u = s.setStatus .waitingKey) ∨
    (¬ ((∃ x, i = .ldVxKey x) ∧ ∀ k, s.key k = false) ∧ u.status = .running) := by
  by_cases hi : ∃ x, i = .ldVxKey x
  · obtain ⟨x, rfl⟩ := hi
    obtain ⟨k, hk, rfl⟩ | ⟨hnone, rfl⟩ := h
    · exact .inr ⟨fun ⟨_, hn⟩ => by simp [(State.firstKey_eq_none (s.setStatus .running)).2 hn] at hk, rfl⟩
    · exact .inl ⟨⟨x, rfl⟩, (State.firstKey_eq_none _).1 hnone, rfl⟩
  · exact .inr ⟨fun hw => hi hw.1, h.engineWritersOnly.status.resolve_right hi⟩

/-- Settles O39: the end of the step keeps the status, which an unknown word leaves RUNNING and a waiting FX0A alone sets. -/
theorem statusAfterAStep : Obligations.StatusAfterAStep := by
  intro s t h ht
  obtain ⟨u, -, rfl, ⟨hd, rfl⟩ | ⟨i, hd, he⟩⟩ := State.runs_going h ht <;> rw [hd, State.finish_status, State.finish_pc]
  · simp [State.skipUnknown]
  · simp only [Option.some.injEq]
    obtain ⟨hx, hn, rfl⟩ | ⟨hw, hrun⟩ := he.status_cases
    · exact ⟨fun _ => ⟨rfl, rfl⟩, fun hw => absurd ⟨hx, hn⟩ hw⟩
    · exact ⟨fun hw' => absurd hw' hw, fun _ => hrun⟩

end Sys2Proof.Machine
end

section
/-!
PROOFS. The random input (spec/40_engine.md R80; spec/43_alu.md R106): CXNN reads it, nothing else does, and a step uses up its own byte.
-/

namespace Sys2Proof.Machine

variable {s t u v : State} {i : Instr}

/-! ### The random byte of a step -/

theorem State.rndByte_of_cons {b : Byte} {q : List Byte} (h : s.rndQueue = b :: q) : s.rndByte = b := by
  simp only [State.rndByte, h]

theorem State.rndByte_of_nil (h : s.rndQueue = []) : s.rndByte = Config.freeRnd s.rndSteps := by
  simp only [State.rndByte, h]

/-- Settles O10: CXNN writes one register, with the AND of NN and the byte of the random port. -/
theorem randomByteMasked : Obligations.RandomByteMasked := fun x nn s =>
  ⟨hasEncoding_xnn (by decide) rfl rfl rfl, _, s.rndByte, rfl, fun _ _ => State.rndByte_of_cons, State.rndByte_of_nil,
    fun _ _ => by simp, s.regFrame_setReg_advance x _⟩

/-! ### The random input reaches CXNN alone -/

section Ports

variable {q : List Byte} {k : Nat} {r : List Report}

/-- `s` with other contents of the random port and other earlier reports. -/
def State.withPorts (s : State) (q : List Byte) (k : Nat) (r : List Report) : State :=
  { s with rndQueue := q, rndSteps := k, reports := r }

theorem State.writeBytes_withPorts (a : Nat) (bs : List Byte) :
    (s.withPorts q k r).writeBytes a bs = (s.writeBytes a bs).withPorts q k r := by
  induction bs generalizing s a with
  | nil => rfl
  | cons b bs ih => exact ih (s := s.writeByte a b) (a + 1)

theorem State.writeFlagged_withPorts (x : Nibble) (res f : Byte) :
    (s.withPorts q k r).writeFlagged x res f = (s.writeFlagged x res f).withPorts q k r := by
  unfold State.writeFlagged
  rw [show (s.withPorts q k r).cfg = s.cfg from rfl]
  split <;> rfl

theorem State.foldl_setReg_withPorts (f : Nibble → Byte) (l : List Nibble) :
    l.foldl (fun t x => t.setReg x (f x)) (s.withPorts q k r) = (l.foldl (fun t x => t.setReg x (f x)) s).withPorts q k r := by
  induction l generalizing s with
  | nil => rfl
  | cons x l ih => exact ih (s := s.setReg x (f x))

theorem fatalCondition_withPorts : fatalCondition i (s.withPorts q k r) = fatalCondition i s := by
  cases i <;> rfl

/-- The effect of an instruction is determined by the state but for the ports, which it reads only as the random byte of CXNN, and it
leaves them. -/
theorem Effect.withPorts (hrnd : (s.withPorts q k r).rndByte = s.rndByte ∨ ∀ x nn, i ≠ .rnd x nn) (h : Effect i s u)
    (h' : Effect i (s.withPorts q k r) v) : v = u.withPorts q k r := by
  cases i with
  | ret | call | drw =>
    obtain ⟨-, rfl⟩ := h
    obtain ⟨-, rfl⟩ := h'
    rfl
  | skp | sknp =>
    obtain ⟨b, hb, rfl⟩ := h
    obtain ⟨b', hb', rfl⟩ := h'
    obtain rfl : b = b' := Option.some.inj (hb.symm.trans hb')
    rfl
  | ldVxKey =>
    obtain ⟨j, hj, rfl⟩ | ⟨hj, rfl⟩ := h <;> obtain ⟨j', hj', rfl⟩ | ⟨hj', rfl⟩ := h'
    · obtain rfl : j = j' := Option.some.inj (hj.symm.trans hj')
      rfl
    · cases hj.symm.trans hj'
    · cases hj.symm.trans hj'
    · rfl
  | ldBcd | storeRegs =>
    obtain ⟨-, rfl⟩ := h
    obtain ⟨-, rfl⟩ := h'
    exact congrArg State.advance (State.writeBytes_withPorts _ _)
  | loadRegs =>
    obtain ⟨-, rfl⟩ := h
    obtain ⟨-, rfl⟩ := h'
    exact congrArg State.advance (State.foldl_setReg_withPorts _ _)
  | addReg | sub | shr | subn | shl =>
    obtain rfl := h
    obtain rfl := h'
    exact congrArg State.advance (State.writeFlagged_withPorts _ _ _)
  | rnd x nn =>
    obtain rfl := h
    obtain rfl := h'
    rw [hrnd.resolve_right fun hne => hne x nn rfl]
    rfl
  | _ =>
    obtain rfl := h
    obtain rfl := h'
    rfl

/-- An instruction answers the same whatever the ports hold, if it is no CXNN or the random byte is the same. -/
theorem exec_withPorts (hrnd : (s.withPorts q k r).rndByte = s.rndByte ∨ ∀ x nn, i ≠ .rnd x nn) (h : exec i s = .next u) :
    exec i (s.withPorts q k r) = .next (u.withPorts q k r) := by
  obtain ⟨v, hv⟩ := exec_next i (s.withPorts q k r)
  rw [hv]
  have hcond : fatalCondition i (s.withPorts q k r) = fatalCondition i s := fatalCondition_withPorts
  obtain ⟨c, rfl, -, -, hc⟩ | he := exec_cases h <;> obtain ⟨c', rfl, -, -, hc'⟩ | he' := exec_cases hv
  · obtain rfl : c' = c := Option.some.inj (hc'.symm.trans (hcond.trans hc))
    rfl
  · cases he'.fatalCondition_eq_none.symm.trans (hcond.trans hc)
  · cases hc'.symm.trans (hcond.trans he.fatalCondition_eq_none)
  · rw [he.withPorts hrnd he']

/-- The end of a step moves the random port on, or leaves it after a fatal error, whatever the ports hold. -/
theorem State.finish_withPorts :
    (s.withPorts q k r).finish =
      s.finish.withPorts (if s.isHalted = true then q else q.tail) (if s.isHalted = true then k else k + 1) r := by
  cases hh : s.isHalted with
  | true => rw [State.finish_of_halted hh, State.finish_of_halted (s := s.withPorts q k r) hh]; rfl
  | false => rw [State.finish_of_running hh, State.finish_of_running (s := s.withPorts q k r) hh]; rfl

end Ports

/-- A step of any word but CXNN is the same whatever the random port holds, and moves that on by one step (R80). -/
theorem step_withPorts_rnd (hne : ∀ x nn, decode s.fetchWord ≠ some (.rnd x nn)) (h : step s = .next t) (q : List Byte) (k : Nat) :
    step (s.withPorts q k s.reports) =
      .next (t.withPorts (if t.isHalted = true then q else q.tail) (if t.isHalted = true then k else k + 1) t.reports) := by
  obtain ⟨hh, rfl⟩ | ⟨hh, hf, rfl⟩ | ⟨hh, hf, hd, rfl⟩ | ⟨hh, hf, i, u, hd, hu, rfl⟩ := step_cases h
  · rw [if_pos hh, if_pos hh]
    exact step_halted hh
  · exact step_fetchFault hh hf
  · exact step_unknown hh hf hd
  · have hstep : step (s.withPorts q k s.reports) = finishResult (exec i ((s.setStatus .running).withPorts q k s.reports)) :=
      step_instr (s := s.withPorts q k s.reports) hh hf hd
    rw [hstep, exec_withPorts (.inr fun x nn hi => hne x nn (hi ▸ hd)) hu, State.finish_isHalted, State.finish_reports,
      exec_reports hu]
    exact congrArg Host.Outcome.next State.finish_withPorts

/-- Settles O41: the random port's part of a step of another word, and the end of a running step, which uses up a byte unless the machine
was halted. -/
theorem randomInputReachesOnlyCXNN : Obligations.RandomInputReachesOnlyCXNN := by
  refine ⟨fun s t q k hne h => step_withPorts_rnd hne h q k, fun s t h => ?_⟩
  cases hh : s.isHalted with
  | true =>
    rw [step_halted hh] at h
    cases h
    simp [hh]
  | false =>
    obtain ⟨rec, -, rfl⟩ | ⟨-, -, rfl⟩ | ⟨-, i, u, -, he, rfl⟩ := State.runs_cases ⟨hh, h⟩
    · exact ⟨nofun, fun _ => ⟨rfl, rfl⟩⟩
    · exact ⟨fun _ => ⟨rfl, rfl⟩, nofun⟩
    · have hu := he.running rfl
      rw [State.finish_isHalted, State.finish_of_running hu, hu]
      simp [he.engineWritersOnly.rndQueue, he.engineWritersOnly.rndSteps]

end Sys2Proof.Machine
end

section
/-!
PROOFS. The display instructions (spec/41_display.md): 00E0 clears the frame, DXYN flips the pixels its sprite covers (R82, R83), and what
follows for drawing twice and for the number of pixels that are on (R84).
-/

namespace Sys2Proof.Machine

variable {s t u : State} {x y n : Nibble} {px : Fin 64} {py : Fin 32}

/-- Settles O16: the frame becomes the blank display. -/
theorem clearScreen : Obligations.ClearScreen := fun _ =>
  ⟨⟨rfl, rfl⟩, _, rfl, Display.blank_pixel, rfl, rfl, fun _ => rfl⟩

/-! ### The effect of DXYN -/

/-- An opcode of layout `xyn` is its row's bits plus X, Y and N (R56). -/
theorem hasEncoding_xyn {i : Instr} {h : Nat} {mask bits : Word} (hh : h < 16) (he : encode i = encodeXYN h x y n)
    (hrow : i.row = ⟨mask, bits⟩) (hbits : bits.toNat = h * 4096) : hasEncoding i mask bits (256 * x.val + 16 * y.val + n.val) := by
  refine ⟨?_, hrow⟩
  rw [he, encodeXYN_toNat hh, hbits]
  omega

@[simp] theorem flagByte_eq_one_iff {c : Bool} : flagByte c = 1 ↔ c = true := by
  cases c <;> decide

/-- A DXYN whose sprite lies in memory has its effect. -/
theorem effect_of_exec_drw (hm : n.val = 0 ∨ s.i.toNat + n.val ≤ 4096) (h : exec (.drw x y n) s = .next t) :
    Effect (.drw x y n) s t := by
  have hr : s.inRange n.val = true := (s.inRange_iff _).2 hm
  rw [exec, execDrw_of_inRange s hr] at h
  exact ⟨hr, (Host.Outcome.next.inj h).symm⟩

section Effect

variable (h : Effect (.drw x y n) s t)
include h

theorem Effect.drw_pixel : t.disp.pixel px py = (s.disp.pixel px py ^^ s.spriteCovers x y n px py) := by
  obtain ⟨-, rfl⟩ := h
  exact s.spriteDrawn_pixel x y n

theorem Effect.drw_vf : t.reg vf = flagByte (s.spriteDrawn x y n).2 := by
  obtain ⟨-, rfl⟩ := h
  simp

theorem Effect.drw_vf_eq_one_iff : t.reg vf = 1 ↔ ∃ px py, s.spriteCovers x y n px py = true ∧ s.disp.pixel px py = true := by
  rw [h.drw_vf, flagByte_eq_one_iff, State.spriteDrawn_collision]

theorem Effect.drw_vf_eq_zero (hc : ¬ ∃ px py, s.spriteCovers x y n px py = true ∧ s.disp.pixel px py = true) : t.reg vf = 0 := by
  rw [← State.spriteDrawn_collision, Bool.not_eq_true] at hc
  rw [h.drw_vf, hc]
  rfl

/-- DXYN leaves memory and I, so the sprite it reads covers the same pixels afterwards if the position is the same. -/
theorem Effect.drw_spriteCovers (hx : t.reg x = s.reg x) (hy : t.reg y = s.reg y) :
    t.spriteCovers x y n px py = s.spriteCovers x y n px py := by
  simp only [State.spriteCovers, hx, hy]
  obtain ⟨-, rfl⟩ := h
  rfl

end Effect

/-- Settles O17: the effect of DXYN where its sprite lies in memory, and the fatal error elsewhere. -/
theorem drawFlipsCoveredPixels : Obligations.DrawFlipsCoveredPixels := by
  refine fun x y n s => ⟨hasEncoding_xyn (by decide) rfl rfl rfl, fun hm => ?_, fun hm => ?_⟩
  · have hr : s.inRange n.val = true := (s.inRange_iff _).2 (by omega)
    have he : Effect (.drw x y n) s _ := ⟨hr, rfl⟩
    exact ⟨_, execDrw_of_inRange s hr, fun _ _ => he.drw_pixel, he.drw_vf_eq_one_iff.2, he.drw_vf_eq_zero, rfl, rfl,
      fun r hne => State.setReg_reg_other s _ hne, fun _ => rfl⟩
  · have hr : s.inRange n.val = false := (s.inRange_false_iff _).2 (by omega)
    exact ⟨_, execDrw_of_not_inRange s hr, rfl⟩

/-! ### Drawing twice -/

/-- Settles O18: the second draw flips the same pixels again, and meets those the first one turned on. -/
theorem drawTwiceRestoresFrame : Obligations.DrawTwiceRestoresFrame := by
  intro x y n s t u hm ht hx hy hu
  have h₁ : Effect (.drw x y n) s t := effect_of_exec_drw hm ht
  have hi : t.i = s.i := by obtain ⟨-, rfl⟩ := h₁; rfl
  have h₂ : Effect (.drw x y n) t u := effect_of_exec_drw (hi ▸ hm) hu
  constructor
  · refine Display.ext_pixel fun px py => ?_
    rw [h₂.drw_pixel, h₁.drw_pixel, h₁.drw_spriteCovers hx hy, Bool.xor_assoc, Bool.xor_self, Bool.xor_false]
  · simp only [h₂.drw_vf_eq_one_iff, h₁.drw_spriteCovers hx hy, h₁.drw_pixel]
    refine exists₂_congr fun px py => and_congr_right fun hc => ?_
    simp [hc]

/-- The machine after reset with glyph 0 on the screen at (0, 0) and I at that glyph. -/
def glyphShown : State :=
  { State.reset with i := 0x050, disp := (State.spriteDrawn { State.reset with i := 0x050 } 0 1 5).1 }

/-- Refutes O19: over its own image a glyph is first erased, with a collision, and then drawn on a blank screen, with none. -/
theorem not_secondDrawAlwaysCollides : ¬ Obligations.SecondDrawAlwaysCollides := by
  intro h
  exact absurd (h 0 1 5 glyphShown _ _ (by decide) (by decide) rfl (by decide) (by decide) rfl) (by decide)

/-! ### Counting pixels -/

theorem countPixels_eq_sum (p : Fin 64 → Fin 32 → Bool) : countPixels p = ∑ a : Fin 64 × Fin 32, (p a.1 a.2).toNat := by
  simp only [countPixels, Finset.card_filter, Bool.toNat, Bool.cond_eq_ite]

/-- Flipping the pixels of `q` in `p` adds them, but for those on already, which it takes away. -/
theorem countPixels_xor (p q : Fin 64 → Fin 32 → Bool) :
    countPixels (fun px py => p px py ^^ q px py) + 2 * countPixels (fun px py => q px py && p px py) =
      countPixels p + countPixels q := by
  simp only [countPixels_eq_sum, Finset.mul_sum, ← Finset.sum_add_distrib]
  refine Finset.sum_congr rfl fun a _ => ?_
  cases p a.1 a.2 <;> cases q a.1 a.2 <;> rfl

/-- Pixels in one of two sets that do not meet. -/
theorem countPixels_or {p q : Fin 64 → Fin 32 → Bool} (hd : ∀ px py, p px py = true → q px py = false) :
    countPixels (fun px py => p px py || q px py) = countPixels p + countPixels q := by
  simp only [countPixels_eq_sum, ← Finset.sum_add_distrib]
  refine Finset.sum_congr rfl fun a _ => ?_
  cases hp : p a.1 a.2 with
  | false => simp
  | true => simp [hd _ _ hp]

theorem countPixels_false : countPixels (fun _ _ => false) = 0 := by simp [countPixels_eq_sum]

/-- A sprite bit lands on one pixel. -/
theorem countPixels_lands (a b : Nat) : countPixels (lands a b) = 1 := by
  refine Finset.card_eq_one.2 ⟨(Fin.ofNat 64 a, Fin.ofNat 32 b), Finset.ext fun ⟨px, py⟩ => ?_⟩
  simp only [Finset.mem_filter, Finset.mem_univ, true_and, lands_iff, Finset.mem_singleton, Prod.mk.injEq]

theorem countPixels_bit (bit : Bool) (a b : Nat) : countPixels (fun px py => bit && lands a b px py) = bit.toNat := by
  cases bit with
  | false => exact countPixels_false
  | true => exact countPixels_lands a b

/-- The set bits among the first `k` columns of a sprite row. -/
def colBits (b : Byte) (k : Nat) : Nat := (List.range k).countP fun c => b.getLsbD (7 - c)

/-- The columns of a row land on as many pixels as there are set bits. -/
theorem countPixels_colsCover (a c : Nat) (b : Byte) {k : Nat} (hk : k ≤ 64) : countPixels (colsCover a c b k) = colBits b k := by
  induction k with
  | zero => exact countPixels_false
  | succ k ih =>
    have hsplit : colsCover a c b (k + 1) = fun px py => (b.getLsbD (7 - k) && lands (a + k) c px py) || colsCover a c b k px py := by
      funext px py
      rw [colsCover_succ, Bool.or_comm]
    have hbits : colBits b (k + 1) = colBits b k + (b.getLsbD (7 - k)).toNat := by
      cases hb : b.getLsbD (7 - k) <;> simp [colBits, List.range_succ, hb]
    rw [hsplit, countPixels_or, countPixels_bit, ih (by omega), hbits, Nat.add_comm]
    intro px py hl
    exact colsCover_disjoint (by omega) (Bool.and_eq_true_iff.1 hl).2

/-- The rows of a sprite land on as many pixels as there are set bits. -/
theorem countPixels_rowsCover (a c : Nat) (bs : List Byte) (hl : bs.length ≤ 32) :
    countPixels (rowsCover a c bs) = (bs.map fun b => colBits b 8).sum := by
  induction bs generalizing c with
  | nil => exact countPixels_false
  | cons b bs ih =>
    rw [List.length_cons] at hl
    have hsplit : rowsCover a c (b :: bs) = fun px py => colsCover a c b 8 px py || rowsCover a (c + 1) bs px py := rfl
    rw [hsplit, countPixels_or fun px py => rowsCover_disjoint (by omega), countPixels_colsCover _ _ _ (by omega), ih _ (by omega),
      List.map_cons, List.sum_cons]

/-- A sprite covers as many pixels as it has set bits. -/
theorem State.countPixels_spriteCovers (s : State) (x y n : Nibble) : countPixels (s.spriteCovers x y n) = s.spriteBits n := by
  have hrows : s.spriteCovers x y n = rowsCover (s.reg x).toNat (s.reg y).toNat (s.readBytes s.i.toNat n.val) := by
    funext px py
    exact spriteCovers_eq_rowsCover s x y n
  rw [hrows, countPixels_rowsCover _ _ _ (by simp; omega), State.readBytes, List.map_map]
  rfl

/-- Settles O20: DXYN flips the covered pixels, and they are as many as the set bits. -/
theorem drawPixelCount : Obligations.DrawPixelCount := by
  intro x y n s t hm ht
  have hflip : t.disp.pixel = fun px py => s.disp.pixel px py ^^ s.spriteCovers x y n px py := by
    funext px py
    exact (effect_of_exec_drw hm ht).drw_pixel
  rw [hflip, countPixels_xor, s.countPixels_spriteCovers]

end Sys2Proof.Machine
end

section
/-!
PROOFS. Control transfer and the register skips (spec/42_control.md): the jumps and skips move PC alone (R86, R88 to R92), a call pushes the
return address (R87), a return pops it (R85), and the two after each other come back to the instruction after the call.
-/

namespace Sys2Proof.Machine

variable {s t : State} {i : Instr}

/-! ### Encodings -/

section Encoding

variable {h : Nat} {x y n : Nibble} {nnn : BitVec 12} {mask bits : Word}

/-- An opcode of layout `nnn` is its row's bits plus NNN (R56). -/
theorem hasEncoding_nnn (hh : h < 16) (he : encode i = encodeNNN h nnn) (hrow : i.row = ⟨mask, bits⟩) (hbits : bits.toNat = h * 4096) :
    hasEncoding i mask bits nnn.toNat := by
  refine ⟨?_, hrow⟩
  rw [he, encodeNNN_toNat hh, hbits]

/-- An opcode of layout `xy` is its row's bits, the fixed low nibble among them, plus X and Y (R56). -/
theorem hasEncoding_xy (hh : h < 16) (he : encode i = encodeXYN h x y n) (hrow : i.row = ⟨mask, bits⟩)
    (hbits : bits.toNat = h * 4096 + n.val) : hasEncoding i mask bits (256 * x.val + 16 * y.val) := by
  refine ⟨?_, hrow⟩
  rw [he, encodeXYN_toNat hh, hbits]
  omega

end Encoding

/-! ### Jumps and skips -/

theorem State.pcFrame_jump (s : State) (a : Word) : s.pcFrame (s.jump a) a := ⟨rfl, fun _ => rfl⟩

/-- Settles O11: the two targets, and that a jump moves PC alone. -/
theorem jumpsSetPcAlone : Obligations.JumpsSetPcAlone := fun nnn s =>
  ⟨⟨hasEncoding_nnn (by decide) rfl rfl rfl, _, rfl, zext16_toNat nnn, s.pcFrame_jump _⟩,
    hasEncoding_nnn (by decide) rfl rfl rfl, _, rfl, s.offsetTarget_toNat nnn, s.pcFrame_jump _⟩

section Skip

variable {c : Bool} {p : Prop} [Decidable p]

/-- A skip taken when `p` holds. -/
theorem State.pcFrame_skipIf (s : State) (hc : c = true ↔ p) : s.pcFrame (s.skipIf c) (if p then s.pc + 4 else s.pc + 2) := by
  simp only [← hc]
  exact s.pcFrame_jump _

/-- A skip taken when `p` fails. -/
theorem State.pcFrame_skipIf_not (s : State) (hc : c = true ↔ ¬ p) : s.pcFrame (s.skipIf c) (if p then s.pc + 2 else s.pc + 4) := by
  rw [← ite_not]
  exact s.pcFrame_skipIf hc

end Skip

theorem byte_beq_iff_toNat {a b : Byte} : (a == b) = true ↔ a.toNat = b.toNat := by
  rw [beq_iff_eq, BitVec.toNat_inj]

theorem byte_bne_iff_toNat {a b : Byte} : (a != b) = true ↔ ¬ a.toNat = b.toNat := by
  rw [bne_iff_ne, Ne, BitVec.toNat_inj]

/-- Settles O14: each register skip is taken on the equality, or on the inequality, of the two values it compares. -/
theorem skipsMovePcAlone : Obligations.SkipsMovePcAlone := fun _ _ _ s =>
  ⟨⟨hasEncoding_xnn (by decide) rfl rfl rfl, _, rfl, s.pcFrame_skipIf byte_beq_iff_toNat⟩,
    ⟨hasEncoding_xnn (by decide) rfl rfl rfl, _, rfl, s.pcFrame_skipIf_not byte_bne_iff_toNat⟩,
    ⟨hasEncoding_xy (by decide) rfl rfl rfl, _, rfl, s.pcFrame_skipIf byte_beq_iff_toNat⟩,
    hasEncoding_xy (by decide) rfl rfl rfl, _, rfl, s.pcFrame_skipIf_not byte_bne_iff_toNat⟩

/-! ### Call and return -/

/-- Settles O12: a call on a stack with room, which writes the entry at SP, and on a full one. -/
theorem callPushesReturnAddress : Obligations.CallPushesReturnAddress := by
  refine fun nnn s => ⟨hasEncoding_nnn (by decide) rfl rfl rfl, fun k hk => ?_, fun hfull => ⟨_, execCall_full s nnn hfull, rfl⟩⟩
  have hlt : s.sp.val < 16 := hk ▸ k.isLt
  refine ⟨_, execCall_of_lt s nnn hlt, ?_, congrArg (· + 1) hk, zext16_toNat nnn, fun j hj => ?_, rfl, fun _ => rfl⟩
  · simp only [hk, Vector.getElem_set_self]
  · have hne : s.sp.val ≠ j.val := fun he => hj (Fin.ext (he.symm.trans hk))
    exact Vector.getElem_set_ne hlt _ hne

/-- Settles O13: a return from a call, which reads the entry below SP and keeps it, and one on an empty stack. -/
theorem returnPopsIntoPc : Obligations.ReturnPopsIntoPc := by
  refine fun s => ⟨⟨rfl, rfl⟩, fun k hk => ?_, fun hempty => ⟨_, execRet_empty s hempty, rfl⟩⟩
  have hpos : 0 < s.sp.val := by omega
  have htop : s.sp.val - 1 = k.val := by omega
  refine ⟨_, execRet_of_pos s hpos, ?_, htop, rfl, fun _ => rfl⟩
  simp only [htop]

/-- The entry a return reads after a call is the one the call has written, so the two together change PC and the stack's entries alone. -/
theorem exec_ret_of_exec_call {nnn : BitVec 12} (hlt : s.sp.val < 16) (h : exec (.call nnn) s = .next t) :
    exec .ret t = .next { s with stack := t.stack, pc := s.pc + 2 } := by
  have ht := Host.Outcome.next.inj (h.symm.trans (execCall_of_lt s nnn hlt))
  have hpos : 0 < t.sp.val := ht ▸ Nat.succ_pos s.sp.val
  refine (execRet_of_pos t hpos).trans ?_
  subst ht
  simp

/-- Settles O15: a call with room on the stack answers a next state, and the return takes it back. -/
theorem callThenReturnRoundTrip : Obligations.CallThenReturnRoundTrip := fun nnn s hlt =>
  have hcall := execCall_of_lt s nnn hlt
  ⟨_, _, hcall, exec_ret_of_exec_call hlt hcall, rfl, rfl, rfl⟩

end Sys2Proof.Machine
end

section
/-!
PROOFS. Register arithmetic and logic (spec/43_alu.md): the instructions that write V[X] alone (R95 to R100) and those that also write VF,
in either order of the two writes (R101 to R105).
-/

namespace Sys2Proof.Machine

variable {a b : Byte}

/-! ### The computed bytes as numbers (R93) -/

theorem addByte_toNat : (addByte a b).toNat = (a.toNat + b.toNat) % 256 := BitVec.toNat_ofNat _ 8

/-- The difference in unbounded integers, reduced modulo 256, is the one a natural number gives once 256 is added. -/
theorem subByte_toNat : (subByte a b).toNat = (a.toNat + 256 - b.toNat) % 256 := by
  have ha := a.isLt
  have hb := b.isLt
  rw [subByte, BitVec.toNat_ofInt]
  omega

theorem shrByte_toNat : (shrByte a).toNat = a.toNat / 2 := by
  have ha := a.isLt
  rw [shrByte, BitVec.toNat_ofNat]
  omega

theorem shlByte_toNat : (shlByte a).toNat = a.toNat * 2 % 256 := BitVec.toNat_ofNat _ 8

/-! ### The flags as numbers (R93) -/

theorem flagByte_toNat (c : Bool) : (flagByte c).toNat = c.toNat := by
  cases c <;> rfl

theorem flagByte_decide_toNat (p : Prop) [Decidable p] : (flagByte (decide p)).toNat = if p then 1 else 0 := by
  by_cases h : p <;> simp [flagByte, h]

theorem carryFlag_toNat : (carryFlag a b).toNat = if a.toNat + b.toNat > 255 then 1 else 0 := flagByte_decide_toNat _

theorem greaterFlag_toNat : (greaterFlag a b).toNat = if a.toNat > b.toNat then 1 else 0 := flagByte_decide_toNat _

/-- A flag that is bit `k` of a byte. -/
theorem flagByte_getLsbD_toNat (k : Nat) : (flagByte (a.getLsbD k)).toNat = a.toNat / 2 ^ k % 2 := by
  rw [flagByte_toNat, BitVec.getLsbD, Nat.toNat_testBit]

theorem lowBitFlag_toNat : (lowBitFlag a).toNat = a.toNat % 2 := by
  rw [lowBitFlag, flagByte_getLsbD_toNat, Nat.pow_zero, Nat.div_one]

theorem highBitFlag_toNat : (highBitFlag a).toNat = a.toNat / 128 := by
  have ha := a.isLt
  rw [highBitFlag, flagByte_getLsbD_toNat]
  omega

/-! ### The instructions that set no flag -/

/-- What an instruction that only writes `b` to V[X] leaves in V[X]. -/
theorem State.setReg_advance_reg (s : State) (x : Nibble) (b : Byte) : (s.setReg x b).advance.reg x = b := s.setReg_reg_same x b

/-- Settles O1: 6XNN writes one register. -/
theorem loadImmediate : Obligations.LoadImmediate := fun x nn s =>
  ⟨hasEncoding_xnn (by decide) rfl rfl rfl, _, rfl, s.setReg_advance_reg x nn, s.regFrame_setReg_advance x nn⟩

/-- Settles O2: 7XNN writes one register, with the sum modulo 256. -/
theorem addImmediateSetsNoFlag : Obligations.AddImmediateSetsNoFlag := fun x nn s =>
  ⟨hasEncoding_xnn (by decide) rfl rfl rfl, _, rfl,
    by rw [State.setReg_advance_reg, addByte_toNat], s.regFrame_setReg_advance x _⟩

/-- Settles O3: 8XY0 writes one register, with what V[Y] holds. -/
theorem copyRegister : Obligations.CopyRegister := fun x y s =>
  ⟨hasEncoding_xy (by decide) rfl rfl rfl, _, rfl, s.setReg_advance_reg x (s.reg y), s.regFrame_setReg_advance x _⟩

/-- Settles O4: each of the three writes one register, with the bitwise operation of the two operands. -/
theorem bitwiseOperationsKeepFlag : Obligations.BitwiseOperationsKeepFlag := fun x y s =>
  ⟨⟨hasEncoding_xy (by decide) rfl rfl rfl, _, rfl, s.regFrame_setReg_advance x _, fun _ _ => by
      rw [State.setReg_advance_reg, BitVec.getLsbD_or]⟩,
    ⟨hasEncoding_xy (by decide) rfl rfl rfl, _, rfl, s.regFrame_setReg_advance x _, fun _ _ => by
      rw [State.setReg_advance_reg, BitVec.getLsbD_and]⟩,
    hasEncoding_xy (by decide) rfl rfl rfl, _, rfl, s.regFrame_setReg_advance x _, fun _ _ => by
      rw [State.setReg_advance_reg, BitVec.getLsbD_xor]⟩

/-! ### The instructions that set VF -/

section Flagged

variable (s : State) (x : Nibble) (res f : Byte)

/-- The two writes of a flag-setting instruction and PC past it change no register but V[X] and VF. -/
theorem State.regFrame_writeFlagged_advance : s.regFrame (s.writeFlagged x res f).advance [x, vf] := by
  refine ⟨congrArg State.advance (s.writeFlagged_eq x res f), fun r hr => ?_, s.writeFlagged_readByte x res f⟩
  obtain ⟨hx, hv⟩ : r ≠ x ∧ r ≠ vf := by simpa using hr
  simp [State.writeFlagged_reg, hx, hv]

/-- What V[X] and VF hold after the two writes: both values for X other than 15, and for X = 15 the value FLAG_ORDER writes last (R94). -/
theorem State.flagged_writeFlagged_advance {n m : Nat} (hres : res.toNat = n) (hf : f.toNat = m) :
    s.flagged (s.writeFlagged x res f).advance x n m := by
  refine ⟨s.regFrame_writeFlagged_advance x res f, fun hne => ⟨?_, ?_⟩, fun he ho => ?_, fun he ho => ?_⟩
  · simp [State.writeFlagged_reg, hne, hres]
  · simp [State.writeFlagged_reg, hne.symm, hf]
  · simp [State.writeFlagged_reg, he, ho, hres]
  · simp [State.writeFlagged_reg, ho, hf]

end Flagged

/-- Settles O5: the sum modulo 256 and the carry. -/
theorem addSetsCarry : Obligations.AddSetsCarry := fun x _ s =>
  ⟨hasEncoding_xy (by decide) rfl rfl rfl, _, rfl, s.flagged_writeFlagged_advance x _ _ addByte_toNat carryFlag_toNat⟩

/-- Settles O6: the difference V[X] - V[Y] modulo 256 and the strict comparison. -/
theorem subSetsStrictlyGreater : Obligations.SubSetsStrictlyGreater := fun x _ s =>
  ⟨hasEncoding_xy (by decide) rfl rfl rfl, _, rfl, s.flagged_writeFlagged_advance x _ _ subByte_toNat greaterFlag_toNat⟩

/-- Settles O7: half of V[X] and its low bit; the next state is written without Y. -/
theorem shiftRightIgnoresY : Obligations.ShiftRightIgnoresY := fun x _ s =>
  ⟨hasEncoding_xy (by decide) rfl rfl rfl, _, fun _ => rfl, s.flagged_writeFlagged_advance x _ _ shrByte_toNat lowBitFlag_toNat⟩

/-- Settles O8: the difference V[Y] - V[X] modulo 256 and the strict comparison. -/
theorem subnSetsStrictlyGreater : Obligations.SubnSetsStrictlyGreater := fun x _ s =>
  ⟨hasEncoding_xy (by decide) rfl rfl rfl, _, rfl, s.flagged_writeFlagged_advance x _ _ subByte_toNat greaterFlag_toNat⟩

/-- Settles O9: twice V[X] modulo 256 and its high bit; the next state is written without Y. -/
theorem shiftLeftIgnoresY : Obligations.ShiftLeftIgnoresY := fun x _ s =>
  ⟨hasEncoding_xy (by decide) rfl rfl rfl, _, fun _ => rfl, s.flagged_writeFlagged_advance x _ _ shlByte_toNat highBitFlag_toNat⟩

end Sys2Proof.Machine
end

section
/-!
PROOFS. Index register and memory transfer (spec/44_index_memory.md): the instructions that write I alone (R107 to R109), the stores of
FX33 and FX55 at I (R110, R111), and the load of FX65 from I (R112).
-/

namespace Sys2Proof.Machine

/-! ### The index register -/

/-- FX1E adds in the 16 bits of I (R108). -/
theorem State.indexSum_toNat (s : State) (x : Nibble) :
    (s.i + zext16 (s.reg x)).toNat = (s.i.toNat + (s.reg x).toNat) % 65536 := by
  have hx := (s.reg x).isLt
  rw [BitVec.toNat_add, BitVec.toNat_setWidth, Nat.mod_eq_of_lt (by omega : (s.reg x).toNat < 2 ^ 16)]

/-- Every glyph address fits in I, because FONT_BASE is below 433 (R109). -/
theorem State.glyphAddr_toNat (s : State) (x : Nibble) : (s.glyphAddr x).toNat = s.cfg.fontBase.val + 5 * (s.reg x).toNat := by
  have hx := (s.reg x).isLt
  have hf := s.cfg.fontBase.isLt
  rw [State.glyphAddr, BitVec.toNat_ofNat]
  omega

/-- Settles O21: each of the three writes I and moves PC past itself. -/
theorem indexWrites : Obligations.IndexWrites := fun nnn x s =>
  ⟨⟨hasEncoding_nnn (by decide) rfl rfl rfl, _, rfl, zext16_toNat nnn, rfl, fun _ => rfl⟩,
    ⟨hasEncoding_x (by decide) rfl rfl rfl, _, rfl, s.indexSum_toNat x, rfl, fun _ => rfl⟩,
    hasEncoding_x (by decide) rfl rfl rfl, _, rfl, s.glyphAddr_toNat x, rfl, fun _ => rfl⟩

/-! ### Stores at I -/

section Store

variable (s : State) {bs : List Byte} {k : Nat}

/-- Bytes written from I upward and PC past the instruction. -/
theorem State.storeFrame_writeBytes_advance (hk : bs.length = k) : s.storeFrame (s.writeBytes s.i.toNat bs).advance k :=
  ⟨congrArg State.advance (s.writeBytes_eq _ bs), fun _ ha => s.writeBytes_read_outside _ bs (hk ▸ ha)⟩

/-- A store whose last byte is above 4095 halts the machine and writes none (R43). -/
theorem State.haltsWith_storeAtI (op : Word) (hk : bs.length = k + 1) (h : 4095 < s.i.toNat + k) :
    s.haltsWith (s.storeAtI bs op) (.memWriteOutOfRange (s.i.toNat + k)) op := by
  have hr : s.inRange bs.length = false := (s.inRange_false_iff _).2 (by omega)
  rw [s.storeAtI_of_not_inRange bs op hr, hk]
  rfl

end Store

section Digits

variable {s : State} {x : Nibble}

/-- FX33 with its bytes in memory (R110). -/
theorem execLdBcd_of_le (h : s.i.toNat + 2 ≤ 4095) :
    execLdBcd x s = .next (s.writeBytes s.i.toNat (bcdDigits (s.reg x))).advance := by
  rw [execLdBcd, State.storeAtI_of_inRange]
  rw [State.inRange_iff, length_bcdDigits]
  omega

/-- Each digit is below 256, so the byte stored for it is the digit. -/
theorem bcdDigits_map_toNat (b : Byte) : (bcdDigits b).map BitVec.toNat = [b.toNat / 100, b.toNat / 10 % 10, b.toNat % 10] := by
  have hb := b.isLt
  simp only [bcdDigits, List.map_cons, List.map_nil, BitVec.toNat_ofNat, List.cons.injEq, and_true]
  omega

/-- Canonical memory reads back each digit that FX33 stored (R110). -/
theorem State.writeBytes_bcdDigits_read (hw : s.mem.wf s.cfg = true) (h : s.i.toNat + 2 ≤ 4095) {k : Nat} (hk : k < 3) :
    ((s.writeBytes s.i.toNat (bcdDigits (s.reg x))).readByte (s.i.toNat + k)).toNat =
      [(s.reg x).toNat / 100, (s.reg x).toNat / 10 % 10, (s.reg x).toNat % 10][k] := by
  have hend : s.i.toNat + (bcdDigits (s.reg x)).length ≤ memSize := by
    rw [length_bcdDigits]
    unfold memSize
    omega
  simp only [← bcdDigits_map_toNat, List.getElem_map]
  exact congrArg BitVec.toNat (s.writeBytes_read_inside _ _ hw hend k hk)

end Digits

/-- Settles O22: three bytes stored where they all exist, and the fatal error elsewhere. -/
theorem storeDecimalDigits : Obligations.StoreDecimalDigits := by
  refine fun x s => ⟨hasEncoding_x (by decide) rfl rfl rfl, fun hle => ?_, fun hgt => ⟨_, rfl, s.haltsWith_storeAtI _ rfl hgt⟩⟩
  refine ⟨_, execLdBcd_of_le hle, s.storeFrame_writeBytes_advance rfl, fun hw => ⟨?_, ?_, ?_⟩⟩
  · exact State.writeBytes_bcdDigits_read hw hle (k := 0) (by decide)
  · exact State.writeBytes_bcdDigits_read hw hle (k := 1) (by decide)
  · exact State.writeBytes_bcdDigits_read hw hle (k := 2) (by decide)

/-- Settles O23: V0..VX stored where their bytes all exist, and the fatal error elsewhere. -/
theorem storeRegisters : Obligations.StoreRegisters := fun x s =>
  have hlen := s.length_regsBytes x
  ⟨hasEncoding_x (by decide) rfl rfl rfl,
    fun hle => ⟨_, execStoreRegs_of_le hle, s.storeFrame_writeBytes_advance hlen, fun hw _ hr =>
      State.writeBytes_regsBytes_read hw hle hr⟩,
    fun hgt => ⟨_, rfl, s.haltsWith_storeAtI _ hlen hgt⟩⟩

/-! ### The load from I -/

/-- V0..VX loaded and PC past the instruction. -/
theorem State.regFrame_loadRegsFromI_advance (s : State) (x : Nibble) :
    s.regFrame (s.loadRegsFromI x).advance (nibbles.filter (· ≤ x)) := by
  refine ⟨congrArg State.advance (s.loadRegsFromI_eq x), fun r hr => ?_, s.loadRegsFromI_readByte x⟩
  have hgt : ¬ r ≤ x := by simpa [mem_nibbles] using hr
  exact (s.loadRegsFromI_reg x r).trans (if_neg hgt)

/-- Settles O24: V0..VX loaded where their bytes all exist, and the fatal error elsewhere. -/
theorem loadRegisters : Obligations.LoadRegisters := by
  refine fun x s => ⟨hasEncoding_x (by decide) rfl rfl rfl, fun hle => ?_, fun hgt => ?_⟩
  · have hr : s.inRange (x.val + 1) = true := (s.inRange_iff _).2 (by omega)
    exact ⟨_, execLoadRegs_of_inRange s hr, s.regFrame_loadRegsFromI_advance x, fun r hrx =>
      (s.loadRegsFromI_reg x r).trans (if_pos hrx)⟩
  · have hr : s.inRange (x.val + 1) = false := (s.inRange_false_iff _).2 (by omega)
    exact ⟨_, execLoadRegs_of_not_inRange s hr, rfl⟩

end Sys2Proof.Machine
end

section
/-!
PROOFS. Input and timers (spec/45_timers_input.md): the key skips under each KEY_OOR_POLICY (R113, R114), the wait for a key (R116), and the
moves between V[X] and a timer (R115, R117, R118).
-/

namespace Sys2Proof.Machine

variable {s : State} {b : Byte}

/-! ### The latch state a key number stands for -/

/-- The key a number names: its own up to 15, and above 15 under mask its low nibble's. -/
theorem State.keyFor_of_names {k : Nibble} (h : b.toNat = k.val ∨ 15 < b.toNat ∧ s.cfg.keyOorPolicy = .mask ∧ b.toNat % 16 = k.val) :
    s.keyFor b = some (s.key k) := by
  obtain hk | ⟨hgt, hmask, hk⟩ := h
  · rw [s.keyFor_of_lt (hk ▸ k.isLt)]
    exact congrArg (some ∘ s.key) (Fin.ext hk)
  · rw [s.keyFor_of_ge hgt, hmask]
    exact congrArg (some ∘ s.key) (Fin.ext hk)

/-- A key that does not exist is clear under not_pressed. -/
theorem State.keyFor_of_notPressed (hgt : 15 < b.toNat) (hp : s.cfg.keyOorPolicy = .notPressed) : s.keyFor b = some false := by
  rw [s.keyFor_of_ge hgt, hp]

/-- A key that does not exist has no latch state under fault. -/
theorem State.keyFor_of_fault (hgt : 15 < b.toNat) (hp : s.cfg.keyOorPolicy = .fault) : s.keyFor b = none := by
  rw [s.keyFor_of_ge hgt, hp]

/-! ### The key skips -/

/-- Settles O26: the skip is taken on the latch state that V[X] stands for, and where it stands for none the machine halts. -/
theorem skipIfKeyPressed : Obligations.SkipIfKeyPressed := fun _ s =>
  ⟨hasEncoding_x (by decide) rfl rfl rfl,
    fun _ hk => ⟨_, execSkp_of_some s (State.keyFor_of_names hk), s.pcFrame_skipIf Iff.rfl⟩,
    fun hgt hp => ⟨_, execSkp_of_some s (State.keyFor_of_notPressed hgt hp), s.pcFrame_jump _⟩,
    fun hgt hp => ⟨_, execSkp_of_none s (State.keyFor_of_fault hgt hp), rfl⟩⟩

/-- Settles O27: the skip is taken on the complement of the latch state that V[X] stands for, and where it stands for none the machine halts. -/
theorem skipIfKeyNotPressed : Obligations.SkipIfKeyNotPressed := fun _ s =>
  ⟨hasEncoding_x (by decide) rfl rfl rfl,
    fun _ hk => ⟨_, execSknp_of_some s (State.keyFor_of_names hk), s.pcFrame_skipIf_not Bool.not_iff_not⟩,
    fun hgt hp => ⟨_, execSknp_of_some s (State.keyFor_of_notPressed hgt hp), s.pcFrame_jump _⟩,
    fun hgt hp => ⟨_, execSknp_of_none s (State.keyFor_of_fault hgt hp), rfl⟩⟩

/-! ### The wait for a key -/

/-- A key number fits in a register. -/
theorem nibble_toByte_toNat (k : Nibble) : (BitVec.ofNat 8 k.val : Byte).toNat = k.val :=
  Nat.mod_eq_of_lt (k.isLt.trans (by decide))

/-- Settles O28: the least pressed key stored and PC past the instruction, and with no key pressed the status alone. -/
theorem waitForKey : Obligations.WaitForKey := by
  refine fun x s => ⟨hasEncoding_x (by decide) rfl rfl rfl, fun k hk hleast => ?pressed, fun hnone => ?waiting⟩
  case pressed =>
    refine ⟨_, execLdVxKey_of_some s ((s.firstKey_eq_some k).2 ⟨hk, hleast⟩), ?_, fun r hr => ?_, rfl, fun _ => rfl⟩
    · rw [State.setStatus_reg, State.setReg_advance_reg, nibble_toByte_toNat]
    · exact s.setReg_reg_other _ hr
  case waiting => exact ⟨_, execLdVxKey_of_none s (s.firstKey_eq_none.2 hnone), rfl, fun _ => rfl⟩

/-! ### The timer moves -/

/-- Settles O29: FX07 writes one register, FX15 and FX18 one timer each. -/
theorem timerMoves : Obligations.TimerMoves := fun x s =>
  ⟨⟨_, rfl, s.setReg_advance_reg x s.dt, s.regFrame_setReg_advance x s.dt⟩,
    ⟨_, rfl, rfl, rfl, fun _ => rfl⟩, _, rfl, rfl, rfl, fun _ => rfl⟩

end Sys2Proof.Machine
end

section
/-!
PROOFS. Fatal errors and reports (spec/60_exceptions.md R119 to R126): which steps halt the machine and with which record, and that reports
are output alone.
-/

namespace Sys2Proof.Machine

variable {s t u : State} {i : Instr}

/-! ### Fatal steps -/

/-- A fatal error's condition does not read the status. -/
theorem fatalCondition_setStatus (x : Status) : fatalCondition i (s.setStatus x) = fatalCondition i s := by
  cases i <;> rfl

/-- A running step raises the fatal error of R120's table for the fetch limit, or the one for its instruction, with the fetched opcode; or
the table has none and the machine is not halted. -/
theorem State.runs_fatal_cases (h : s.runs t) :
    (s.fetchFaults = true ∧ t = s.raiseFatal (.fetchOutOfRange s.pc) none) ∨
    (s.fetchFaults = false ∧ ∃ i c, decode s.fetchWord = some i ∧ fatalCondition i s = some c ∧
      t = s.raiseFatal c (some s.fetchWord)) ∨
    (s.fetchFaults = false ∧ (∀ i, decode s.fetchWord = some i → fatalCondition i s = none) ∧ t.isHalted = false) := by
  obtain ⟨hrun, hstep⟩ := h
  obtain ⟨hh, -⟩ | ⟨-, hf, rfl⟩ | ⟨-, hf, hd, rfl⟩ | ⟨-, hf, i, u, hd, hu, rfl⟩ := step_cases hstep
  · simp [hh] at hrun
  · exact .inl ⟨hf, rfl⟩
  · exact .inr (.inr ⟨hf, by simp [hd], rfl⟩)
  · obtain ⟨c, rfl, -, -, hc⟩ | he := exec_cases hu
    · rw [fatalCondition_setStatus] at hc
      exact .inr (.inl ⟨hf, i, c, hd, hc, by rw [encodeDecode _ _ hd]; rfl⟩)
    · refine .inr (.inr ⟨hf, fun j hj => ?_, State.finish_isHalted.trans (he.running rfl)⟩)
      obtain rfl : i = j := Option.some.inj (hd.symm.trans hj)
      exact (fatalCondition_setStatus _).symm.trans he.fatalCondition_eq_none

/-- Settles O36: either kind of fatal step raises its error on the state it began in, and no other step halts. -/
theorem fatalStepChangesStatusAlone : Obligations.FatalStepChangesStatusAlone := by
  intro s t rec h ht
  obtain ⟨-, rfl⟩ | ⟨-, i, c, -, -, rfl⟩ | ⟨-, -, hgo⟩ := State.runs_fatal_cases h
  · rw [← ht]; rfl
  · rw [← ht]; rfl
  · exact absurd ht (t.isHalted_false_iff.1 hgo rec)

/-- Settles O37: the three cases of a running step exclude each other, so each of the table's premises picks its own. -/
theorem fatalErrorsFollowTable : Obligations.FatalErrorsFollowTable := by
  refine ⟨⟨fun _ => rfl, rfl, rfl, fun _ => rfl, fun _ => rfl, fun _ => rfl⟩, fun s t h => ?_⟩
  obtain ⟨hf, rfl⟩ | ⟨hf, i, c, hd, hc, rfl⟩ | ⟨hf, hnone, hgo⟩ := State.runs_fatal_cases h <;> simp only [hf]
  · exact ⟨fun _ => rfl, nofun, nofun⟩
  · refine ⟨nofun, fun _ j c' hj hc' => ?_, fun _ hnone => ?_⟩
    · obtain rfl : i = j := Option.some.inj (hd.symm.trans hj)
      obtain rfl : c = c' := Option.some.inj (hc.symm.trans hc')
      rfl
    · cases hc.symm.trans (hnone i hd)
  · refine ⟨nofun, fun _ j c hj hc => ?_, fun _ _ => hgo⟩
    cases hc.symm.trans (hnone j hj)

/-! ### Reports -/

/-- No instruction touches the random port: the end of the step moves it on (R80). -/
theorem exec_randomPort (h : exec i s = .next u) : u.rndQueue = s.rndQueue ∧ u.rndSteps = s.rndSteps := by
  obtain ⟨c, rfl, -⟩ | he := exec_cases h
  · exact ⟨rfl, rfl⟩
  · exact ⟨he.engineWritersOnly.rndQueue, he.engineWritersOnly.rndSteps⟩

/-- An instruction does the same whatever was reported before (R124). -/
theorem exec_withReports (h : exec i s = .next u) (old : List Report) :
    exec i { s with reports := old } = .next { u with reports := old } := by
  obtain ⟨hq, hk⟩ := exec_randomPort h
  rw [show ({ u with reports := old } : State) = u.withPorts s.rndQueue s.rndSteps old by rw [← hq, ← hk]; rfl]
  exact exec_withPorts (.inl rfl) h

theorem State.finish_withReports (s : State) (old : List Report) :
    State.finish { s with reports := old } = { s.finish with reports := old } := by
  cases hh : s.isHalted with
  | true => rw [State.finish_of_halted hh]; exact State.finish_of_halted hh
  | false => rw [State.finish_of_running hh]; exact State.finish_of_running hh

/-- Settles O42: of the four cases of a step only the unknown word adds a report, and none reads those emitted before. -/
theorem reportsAreOutputAlone : Obligations.ReportsAreOutputAlone := by
  intro s t old h
  obtain ⟨hh, rfl⟩ | ⟨hh, hf, rfl⟩ | ⟨hh, hf, hd, rfl⟩ | ⟨hh, hf, i, u, hd, hu, rfl⟩ := step_cases h
  · exact ⟨[], by simp, by simp, by simp [hh], by simpa using step_halted (s := { t with reports := old }) hh⟩
  · refine ⟨[], by simp, by simp, by simp [hf], ?_⟩
    rw [List.append_nil]
    exact step_fetchFault (s := { s with reports := old }) hh hf
  · exact ⟨[⟨s.pc, s.fetchWord⟩], by simp, rfl, by simp [hh, hf, hd], step_unknown (s := { s with reports := old }) hh hf hd⟩
  · refine ⟨[], by simp, by simp [exec_reports hu], by simp [hd], ?_⟩
    have hstep : step { s with reports := old } = finishResult (exec i { s.setStatus .running with reports := old }) :=
      step_instr (s := { s with reports := old }) hh hf hd
    rw [hstep, exec_withReports hu old, List.append_nil]
    exact congrArg Host.Outcome.next (u.finish_withReports old)

end Sys2Proof.Machine
end

section
/-!
PROOFS. The host between steps (spec/60_exceptions.md R131 to R135; spec/70_reset_and_hazards.md R141 to R143): what each action does, and
that the invariant survives all of them and a ROM load.
-/

namespace Sys2Proof.Machine

variable {s t : State}

/-- A fatal record tells the truth about the configuration, PC and SP alone. -/
theorem FatalRecord.truthful_congr {rec : FatalRecord} (hcfg : t.cfg = s.cfg) (hpc : t.pc = s.pc) (hsp : t.sp = s.sp)
    (h : rec.truthful s) : rec.truthful t := by
  obtain ⟨hrec, hc, hop⟩ := h
  refine ⟨hrec.trans hpc.symm, ?_, by rwa [hpc]⟩
  cases hcause : rec.cause <;> simpa [hcause, FatalCause.holdsIn, hcfg, hpc, hsp] using hc

/-- The invariant speaks of memory, PC, the call stack and the status alone. -/
theorem State.Inv.congr (hi : s.Inv) (hmem : t.mem.wf t.cfg = true) (hcfg : t.cfg = s.cfg) (hpc : t.pc = s.pc) (hsp : t.sp = s.sp)
    (hstack : t.stack = s.stack) (hstatus : t.status = s.status) : t.Inv where
  memory := hmem
  pc := by rw [hpc]; exact hi.pc
  stack := by rw [hstack]; exact hi.stack
  halted rec hrec := FatalRecord.truthful_congr hcfg hpc hsp (hi.halted rec (hstatus.symm.trans hrec))

/-- The initial state is a legal one under every configuration. -/
theorem State.initial_inv (cfg : Config) : (State.initial cfg).Inv :=
  .of_running rfl (State.initial_wf cfg) (by simp [maxPc]) (by simp [maxPc])

theorem State.Inv.host (hi : s.Inv) (a : HostAction) : (s.host a).Inv := by
  cases a with
  | restart => exact State.initial_inv s.cfg
  | setKey | clearDrawPending | provideRnd => exact hi.congr hi.memory rfl rfl rfl rfl rfl

/-- An accepted image has at most MAX_ROM bytes and is written at PROGRAM_BASE upward (R141, R142). -/
theorem State.loadRom_eq_ok {rom : List Byte} (h : s.loadRom rom = .ok t) : rom.length ≤ 3584 ∧ t = s.writeBytes programBase rom := by
  unfold State.loadRom at h
  split at h
  · next hfits =>
    cases h
    exact ⟨of_decide_eq_true hfits, rfl⟩
  · cases h

/-- An accepted image lies within memory, so loading it keeps the invariant. -/
theorem State.Inv.loadRom {rom : List Byte} (hi : s.Inv) (h : s.loadRom rom = .ok t) : t.Inv := by
  obtain ⟨hlen, rfl⟩ := State.loadRom_eq_ok h
  refine hi.congr ?_ ?_ ?_ ?_ ?_ ?_
  · simpa using s.writeBytes_wf programBase rom hi.memory (programBase_add_length_le hlen)
  all_goals simp

/-- Settles O58: each action writes the one field it names, the tone is read from ST, and the invariant is kept by an action and by a load. -/
theorem hostKeepsInvariant : Obligations.HostKeepsInvariant := by
  refine ⟨fun s k b => ⟨?set, fun j hj => ?others, rfl⟩, fun s => ⟨rfl, rfl, ?tone⟩, fun _ _ => rfl, fun _ a hi => hi.host a,
    fun _ _ _ hi h => hi.loadRom h⟩
  case set => exact (s.setKey_key k b k).trans (if_pos rfl)
  case others => exact (s.setKey_key k b j).trans (if_neg hj)
  case tone => simp [State.toneOn]

end Sys2Proof.Machine
end

section
/-!
PROOFS. The ROM loader's two answers and what a restart leaves (spec/70_reset_and_hazards.md R141 to R143; spec/92_eei_decisions.md D22).
-/

namespace Sys2Proof.Machine

variable (s : State) {rom : List Byte}

/-- An image of more than MAX_ROM bytes is rejected (R142). -/
theorem State.loadRom_of_lt_length (h : 3584 < rom.length) : s.loadRom rom = .error .romTooLarge :=
  if_neg fun hfits => absurd (of_decide_eq_true hfits) (Nat.not_le_of_lt h)

/-- What an accepted image leaves in a machine whose memory is canonical: the image at PROGRAM_BASE upward, and everything else as it was (R141). -/
theorem State.loadRom_spec_of_length_le (hw : s.mem.wf s.cfg = true) (hlen : rom.length ≤ 3584) :
    ∃ t, s.loadRom rom = .ok t ∧ (∀ (k : Nat) (h : k < rom.length), t.readByte (0x200 + k) = rom[k]) ∧
      (∀ a, (a < 0x200 ∨ 0x200 + rom.length ≤ a) → t.readByte a = s.readByte a) ∧ t = { s with mem := t.mem } := by
  refine ⟨_, s.loadRom_of_length_le hlen, ?inside, ?outside, s.writeBytes_eq programBase rom⟩
  case inside => exact s.writeBytes_read_inside programBase rom hw (programBase_add_length_le hlen)
  case outside => exact fun _ ha => s.writeBytes_read_outside programBase rom ha

/-- Settles O59: the reset state's memory is canonical, so an accepted image reads back, and the loader rejects every longer one. -/
theorem romLoad : Obligations.RomLoad := fun _ =>
  ⟨State.reset.loadRom_spec_of_length_le (State.initial_wf defaultConfig), State.reset.loadRom_of_lt_length⟩

/-- A restart is the initialization of the machine's own configuration, whatever the state was (R143). -/
@[simp] theorem State.host_restart : s.host .restart = State.initial s.cfg := rfl

/-- Settles O60: a restart depends on the configuration alone, and reset is the initial state of the default one. -/
theorem restartInitializes : Obligations.RestartInitializes := fun s =>
  ⟨s.host_restart, fun hcfg => s.host_restart.trans (congrArg State.initial hcfg)⟩

end Sys2Proof.Machine
end
